-- ==== Sys2Proof/Word.lean ====
section
/-! DEFINITION. The word types of the machine: bytes, 16-bit words and the opcode's fields (spec/00_scope.md R6, R8; spec/30_encoding.md R71). -/

namespace Sys2Proof

/-- One memory byte, one general register, one timer (R6 `REG_WIDTH`, `TIMER_WIDTH`). -/
abbrev Byte := BitVec 8

/-- A 16-bit quantity: an opcode, the index register, the program counter, a stack entry (R6). -/
abbrev Word := BitVec 16

/-- A 4-bit field of an opcode, a "nibble" (R11). -/
abbrev Nibble := BitVec 4

/-- The 12-bit immediate address `NNN` (R71). -/
abbrev Addr12 := BitVec 12

/-- The index 0 to 15 of a general register (R20): every value of the 4-bit field names a register. -/
abbrev Reg := Fin 16

/-- `VF`, the flag register, is register 15 (R6 `FLAG_REG`, R22). -/
abbrev vf : Reg := 15

end Sys2Proof
end

