-- ==== Sys2Proof/Syntax.lean ====
section
/-! DEFINITION. The instructions: one constructor per row of spec/opcode_table.json (spec/30_encoding.md R76). -/

namespace Sys2Proof

/-- An instruction of the machine (R76): `x`, `y` are register indices, `nn` the immediate byte, `nnn` the 12-bit
address, `n` the sprite height. Each field has exactly the width R71 gives it, so every term is well formed
(log 20). The comment of a constructor is its pattern. -/
inductive Instr where
  /-- 00E0, clear the framebuffer. -/
  | cls
  /-- 00EE, return. -/
  | ret
  /-- 1NNN, jump. -/
  | jp (nnn : Addr12)
  /-- 2NNN, call. -/
  | call (nnn : Addr12)
  /-- 3XNN, skip if VX = NN. -/
  | seImm (x : Reg) (nn : Byte)
  /-- 4XNN, skip if VX ≠ NN. -/
  | sneImm (x : Reg) (nn : Byte)
  /-- 5XY0, skip if VX = VY. -/
  | seReg (x y : Reg)
  /-- 6XNN, load immediate. -/
  | ldImm (x : Reg) (nn : Byte)
  /-- 7XNN, add immediate, no flag. -/
  | addImm (x : Reg) (nn : Byte)
  /-- 8XY0, move. -/
  | ldReg (x y : Reg)
  /-- 8XY1, or. -/
  | orReg (x y : Reg)
  /-- 8XY2, and. -/
  | andReg (x y : Reg)
  /-- 8XY3, exclusive or. -/
  | xorReg (x y : Reg)
  /-- 8XY4, add with carry out. -/
  | addReg (x y : Reg)
  /-- 8XY5, subtract with not-borrow out. -/
  | subReg (x y : Reg)
  /-- 8XY6, named and unimplemented. -/
  | shr (x y : Reg)
  /-- 8XY7, named and unimplemented. -/
  | subn (x y : Reg)
  /-- 8XYE, named and unimplemented. -/
  | shl (x y : Reg)
  /-- 9XY0, skip if VX ≠ VY. -/
  | sneReg (x y : Reg)
  /-- ANNN, load I. -/
  | ldI (nnn : Addr12)
  /-- BNNN, indexed jump. -/
  | jpV0 (nnn : Addr12)
  /-- CXNN, masked random byte. -/
  | rnd (x : Reg) (nn : Byte)
  /-- DXYN, draw. -/
  | drw (x y : Reg) (n : Fin 16)
  /-- EX9E, skip if the key is pressed. -/
  | skp (x : Reg)
  /-- EXA1, skip if the key is not pressed. -/
  | sknp (x : Reg)
  /-- FX07, read the delay timer. -/
  | ldVxDt (x : Reg)
  /-- FX0A, named and unimplemented. -/
  | ldVxK (x : Reg)
  /-- FX15, set the delay timer. -/
  | ldDtVx (x : Reg)
  /-- FX18, set the sound timer. -/
  | ldStVx (x : Reg)
  /-- FX1E, named and unimplemented. -/
  | addIVx (x : Reg)
  /-- FX29, address of a font glyph. -/
  | ldFVx (x : Reg)
  /-- FX33, store binary-coded decimal. -/
  | ldBVx (x : Reg)
  /-- FX55, store V0 to VX. -/
  | stRegs (x : Reg)
  /-- FX65, load V0 to VX. -/
  | ldRegs (x : Reg)
deriving DecidableEq, Repr

end Sys2Proof
end

