-- ==== Sys2Proof/Decode.lean ====
section
/-! DEFINITION. The decoder (spec/30_encoding.md R70 to R77, R83), total on any bytes and rejecting by name, and the encoder written from the same rows (R72, R76). -/

namespace Sys2Proof

/-- Why bytes are no instruction: fewer than two bytes, or an illegal word of one family of R77. -/
inductive DecodeError where
  /-- Fewer than the two bytes of an instruction (R70). -/
  | truncated
  /-- `0NNN` other than 00E0 and 00EE. -/
  | illegalFamily0
  /-- `5XYk` with k ≠ 0. -/
  | illegalFamily5
  /-- `8XYk` with k in 8 to D, or F. -/
  | illegalFamily8
  /-- `9XYk` with k ≠ 0. -/
  | illegalFamily9
  /-- `EXkk` with kk neither 9E nor A1. -/
  | illegalFamilyE
  /-- `FXkk` with kk none of the nine secondary keys. -/
  | illegalFamilyF
deriving DecidableEq, Repr

/-- Bits 15..12, the primary dispatch key (R71). -/
def fieldF (w : Word) : Nibble := w.extractLsb' 12 4

/-- Bits 11..8 as a register index (R71). -/
def fieldX (w : Word) : Reg := (w.extractLsb' 8 4).toFin

/-- Bits 7..4 as a register index (R71). -/
def fieldY (w : Word) : Reg := (w.extractLsb' 4 4).toFin

/-- Bits 3..0 (R71). -/
def fieldN (w : Word) : Nibble := w.extractLsb' 0 4

/-- Bits 7..0 (R71). -/
def fieldNN (w : Word) : Byte := w.extractLsb' 0 8

/-- Bits 11..0 (R71). -/
def fieldNNN (w : Word) : Addr12 := w.extractLsb' 0 12

/-- Family 0x0: the whole low 12 bits are the secondary key (R74, R75). -/
def decodeFamily0 (w : Word) : Except DecodeError Instr :=
  if fieldNNN w = 0x0E0#12 then .ok .cls
  else if fieldNNN w = 0x0EE#12 then .ok .ret
  else .error .illegalFamily0

/-- Family 0x8: the low nibble is the secondary key (R74). -/
def decodeFamily8 (w : Word) : Except DecodeError Instr :=
  match fieldN w with
  | 0x0#4 => .ok (.ldReg (fieldX w) (fieldY w))
  | 0x1#4 => .ok (.orReg (fieldX w) (fieldY w))
  | 0x2#4 => .ok (.andReg (fieldX w) (fieldY w))
  | 0x3#4 => .ok (.xorReg (fieldX w) (fieldY w))
  | 0x4#4 => .ok (.addReg (fieldX w) (fieldY w))
  | 0x5#4 => .ok (.subReg (fieldX w) (fieldY w))
  | 0x6#4 => .ok (.shr (fieldX w) (fieldY w))
  | 0x7#4 => .ok (.subn (fieldX w) (fieldY w))
  | 0xE#4 => .ok (.shl (fieldX w) (fieldY w))
  | _ => .error .illegalFamily8

/-- Family 0xE: the low byte is the secondary key (R74). -/
def decodeFamilyE (w : Word) : Except DecodeError Instr :=
  match fieldNN w with
  | 0x9E#8 => .ok (.skp (fieldX w))
  | 0xA1#8 => .ok (.sknp (fieldX w))
  | _ => .error .illegalFamilyE

/-- Family 0xF: the low byte is the secondary key (R74). -/
def decodeFamilyF (w : Word) : Except DecodeError Instr :=
  match fieldNN w with
  | 0x07#8 => .ok (.ldVxDt (fieldX w))
  | 0x0A#8 => .ok (.ldVxK (fieldX w))
  | 0x15#8 => .ok (.ldDtVx (fieldX w))
  | 0x18#8 => .ok (.ldStVx (fieldX w))
  | 0x1E#8 => .ok (.addIVx (fieldX w))
  | 0x29#8 => .ok (.ldFVx (fieldX w))
  | 0x33#8 => .ok (.ldBVx (fieldX w))
  | 0x55#8 => .ok (.stRegs (fieldX w))
  | 0x65#8 => .ok (.ldRegs (fieldX w))
  | _ => .error .illegalFamilyF

/-- The decoder of one 16-bit opcode: 16-way primary dispatch on the high nibble, then the secondary key of the
family, every fixed digit compared (R74, R75; the strict reading is D3, log 12). -/
def decode (w : Word) : Except DecodeError Instr :=
  match fieldF w with
  | 0x0#4 => decodeFamily0 w
  | 0x1#4 => .ok (.jp (fieldNNN w))
  | 0x2#4 => .ok (.call (fieldNNN w))
  | 0x3#4 => .ok (.seImm (fieldX w) (fieldNN w))
  | 0x4#4 => .ok (.sneImm (fieldX w) (fieldNN w))
  | 0x5#4 => if fieldN w = 0x0#4 then .ok (.seReg (fieldX w) (fieldY w)) else .error .illegalFamily5
  | 0x6#4 => .ok (.ldImm (fieldX w) (fieldNN w))
  | 0x7#4 => .ok (.addImm (fieldX w) (fieldNN w))
  | 0x8#4 => decodeFamily8 w
  | 0x9#4 => if fieldN w = 0x0#4 then .ok (.sneReg (fieldX w) (fieldY w)) else .error .illegalFamily9
  | 0xA#4 => .ok (.ldI (fieldNNN w))
  | 0xB#4 => .ok (.jpV0 (fieldNNN w))
  | 0xC#4 => .ok (.rnd (fieldX w) (fieldNN w))
  | 0xD#4 => .ok (.drw (fieldX w) (fieldY w) (fieldN w).toFin)
  | 0xE#4 => decodeFamilyE w
  | _ => decodeFamilyF w

/-- The opcode the two fetched bytes form: big-endian, the byte at the lower address supplies bits 15..8 (R53, R70). -/
def wordOfBytes (b0 b1 : Byte) : Word := b0 ++ b1

/-- The two bytes of an opcode in the order memory holds them (R53). -/
def bytesOfWord (w : Word) : List Byte := [w.extractLsb' 8 8, w.extractLsb' 0 8]

/-- The decoder on bytes: the first two form the opcode; total on any list. -/
def decodeBytes : List Byte → Except DecodeError Instr
  | b0 :: b1 :: _ => decode (wordOfBytes b0 b1)
  | _ => .error .truncated

/-- A register index as its 4-bit field. -/
def nibble (r : Fin 16) : Nibble := BitVec.ofFin r

/-- Format `A` of R72: family, 12-bit address. -/
def wordA (f : Nibble) (nnn : Addr12) : Word := f ++ nnn

/-- Format `XI` of R72: family, X, immediate byte. -/
def wordXI (f : Nibble) (x : Reg) (nn : Byte) : Word := f ++ nibble x ++ nn

/-- Formats `XY` and `XYN` of R72: family, X, Y, low nibble. -/
def wordXY (f : Nibble) (x y : Reg) (k : Nibble) : Word := f ++ nibble x ++ nibble y ++ k

/-- The encoder: the opcode of an instruction, from the formats of R72 and the fixed digits of R76. Format `XK` is
`XI` with a fixed low byte. -/
def encode : Instr → Word
  | .cls => 0x00E0
  | .ret => 0x00EE
  | .jp nnn => wordA 0x1 nnn
  | .call nnn => wordA 0x2 nnn
  | .seImm x nn => wordXI 0x3 x nn
  | .sneImm x nn => wordXI 0x4 x nn
  | .seReg x y => wordXY 0x5 x y 0x0
  | .ldImm x nn => wordXI 0x6 x nn
  | .addImm x nn => wordXI 0x7 x nn
  | .ldReg x y => wordXY 0x8 x y 0x0
  | .orReg x y => wordXY 0x8 x y 0x1
  | .andReg x y => wordXY 0x8 x y 0x2
  | .xorReg x y => wordXY 0x8 x y 0x3
  | .addReg x y => wordXY 0x8 x y 0x4
  | .subReg x y => wordXY 0x8 x y 0x5
  | .shr x y => wordXY 0x8 x y 0x6
  | .subn x y => wordXY 0x8 x y 0x7
  | .shl x y => wordXY 0x8 x y 0xE
  | .sneReg x y => wordXY 0x9 x y 0x0
  | .ldI nnn => wordA 0xA nnn
  | .jpV0 nnn => wordA 0xB nnn
  | .rnd x nn => wordXI 0xC x nn
  | .drw x y n => wordXY 0xD x y (nibble n)
  | .skp x => wordXI 0xE x 0x9E
  | .sknp x => wordXI 0xE x 0xA1
  | .ldVxDt x => wordXI 0xF x 0x07
  | .ldVxK x => wordXI 0xF x 0x0A
  | .ldDtVx x => wordXI 0xF x 0x15
  | .ldStVx x => wordXI 0xF x 0x18
  | .addIVx x => wordXI 0xF x 0x1E
  | .ldFVx x => wordXI 0xF x 0x29
  | .ldBVx x => wordXI 0xF x 0x33
  | .stRegs x => wordXI 0xF x 0x55
  | .ldRegs x => wordXI 0xF x 0x65

/-- The encoder in the byte order of memory (R53). -/
def encodeBytes (i : Instr) : List Byte := bytesOfWord (encode i)

/-- The 16-bit word the host's question `nbits, w` stands for: the table numbers a row's bits from the least
significant bit of its one 16-bit word, and bits above `nbits` are 0. -/
def tableWord (nbits w : Nat) : Word := BitVec.ofNat 16 (w % 2 ^ nbits)

/-- What the decoder reads from an instruction whose bits are `w`, numbered as spec/opcode_table.json numbers them:
the word is laid out as memory holds it and given to the byte decoder. -/
def decodeTableWord (nbits w : Nat) : Option Instr :=
  match decodeBytes (bytesOfWord (tableWord nbits w)) with
  | .ok i => some i
  | .error _ => none

end Sys2Proof
end

