-- ==== Sys2Proof/Config.lean ====
section
/-! DEFINITION. What is fixed for one machine and is not state: the fixed sizes of spec/00_scope.md R6 and the open parameters of R7 (`FONT`, `rnd`, `TIMER_MODE`). -/

namespace Sys2Proof

/-- The two values of the open parameter `TIMER_MODE` (spec/40_step_cycle.md R99, D13). -/
inductive TimerMode where
  /-- `Tick()` ends every step that did not fault (the default). -/
  | perStep
  /-- No tick inside a step; the host performs `tick()` between steps. -/
  | external
deriving DecidableEq, Repr

namespace Config

/-- `MEM_SIZE`: addresses are 0 to 4095 (R6, R50). -/
def memSize : Nat := 4096

/-- `PROG_BASE`: where a program is loaded, and the reset value of `pc` (R6). -/
def progBase : Nat := 0x200

/-- `PROG_MAX`: the most program bytes `load` copies (R6). -/
def progMax : Nat := 3584

/-- `STACK_DEPTH`: the most live entries of the call stack (R6). -/
def stackDepth : Nat := 16

/-- `GLYPH_BYTES`: bytes per font glyph (R6). -/
def glyphBytes : Nat := 5

/-- Glyphs 0 to 7 of the default font (R58). -/
def fontLow : Vector Byte 40 :=
  #v[0xF0, 0x90, 0x90, 0x90, 0xF0,
     0x20, 0x60, 0x20, 0x20, 0x70,
     0xF0, 0x10, 0xF0, 0x80, 0xF0,
     0xF0, 0x10, 0xF0, 0x10, 0xF0,
     0x90, 0x90, 0xF0, 0x10, 0x10,
     0xF0, 0x80, 0xF0, 0x10, 0xF0,
     0xF0, 0x80, 0xF0, 0x90, 0xF0,
     0xF0, 0x10, 0x20, 0x40, 0x40]

/-- Glyphs 8 to F of the default font (R58). -/
def fontHigh : Vector Byte 40 :=
  #v[0xF0, 0x90, 0xF0, 0x90, 0xF0,
     0xF0, 0x90, 0xF0, 0x10, 0xF0,
     0xF0, 0x90, 0xF0, 0x90, 0x90,
     0xE0, 0x90, 0xE0, 0x90, 0xE0,
     0xF0, 0x80, 0x80, 0x80, 0xF0,
     0xE0, 0x90, 0x90, 0x90, 0xE0,
     0xF0, 0x80, 0xF0, 0x80, 0xF0,
     0xF0, 0x80, 0xF0, 0x80, 0x80]

/-- `FONT`, the 80 bytes `init()` installs at address 0: the spec's default (R58, D1). PRESUMED by the spec
itself ("from general knowledge, not in source"), log 4; unsafe for claims about the pixels of a glyph.
`initWith` (Machine/HostOps.lean) takes any other font. -/
def font : Vector Byte 80 := fontLow ++ fontHigh

/-- `TIMER_MODE` of the machine `step` describes: the spec's default (R7, R99). DESIGN CHOICE, log 6; unsafe for
a machine configured as `External`, which `stepIn .external` describes. -/
def timerMode : TimerMode := .perStep

/-- `rnd`, the random byte of the `n`-th CXNN executed: a FREE VALUE (R134, D14, U4), with no body, so that a
claim holds for every byte. DESIGN CHOICE (the form of the free value), log 2; safe. -/
opaque rnd : Nat → Byte

end Config
end Sys2Proof
end

