-- ==== Sys2Proof/Machine/State.lean ====
section
/-! DEFINITION. The state of the machine as plain data, its reset value, and the reasons a step can stop (spec/10_state.md R20 to R43, spec/70_reset_and_hazards.md R200). -/

namespace Sys2Proof.Machine

/-- The values of the fault register (R36, R170). -/
inductive FaultCode where
  /-- 0: the machine has not faulted. -/
  | none
  /-- 1: the fetched word is illegal or one of the five named unimplemented opcodes (R171). -/
  | unsupportedOpcode
  /-- 2: a call with 16 live entries (R172). -/
  | stackOverflow
  /-- 3: a return with no live entry (R174). -/
  | stackUnderflow
  /-- 4: fetch, an I-based access or a draw target out of bounds (R173). -/
  | outOfBoundsMemoryAccess
deriving DecidableEq, Repr

/-- Why `step` gives no next state: a closed list. The four faults of the hardware are not here, because taking one
is a next state whose `fault` register is set (R176, log 1). -/
inductive Fault where
  /-- Raised by `stepIn` (Machine/Cycle.lean) when the fault register is not 0: the machine has faulted earlier and
  has no step (R98, R178). Safe: the spec gives this state no successor. -/
  | terminated (code : FaultCode)
deriving DecidableEq, Repr

/-- Why an instruction has no meaning in the model: a closed list. -/
inductive Refusal where
  /-- Raised by `exec` for an instruction the model gives no meaning. No arm raises it in this model. Safe. -/
  | notModelled (mnemonic : String)
deriving DecidableEq, Repr

/-- Memory as the list of the bytes that differ from the reset contents, addresses strictly rising
(R39, R50; the form is log 5). -/
abbrev Memory := List Host.Cell

/-- The framebuffer: 32 rows, top to bottom, of 64 one-bit cells, left to right (R35). -/
abbrev Framebuffer := Vector (Vector Bool 64) 32

/-- The complete state of the machine (R41), and one field of the model's own, `draws`. -/
structure State where
  /-- `mem`, 4096 bytes (R39). -/
  mem : Memory
  /-- `V0` to `VF`, sixteen 8-bit registers, `VF` being the flag register (R20, R22). -/
  v : Vector Byte 16
  /-- The index register `I` (R23). -/
  i : Word
  /-- The program counter (R25). -/
  pc : Word
  /-- The live entries of the call stack, the TOP entry first; its length is `sp` (R28, log 16). -/
  stack : List Word
  /-- The delay timer `DT` (R32). -/
  dt : Byte
  /-- The sound timer `ST` (R33). -/
  st : Byte
  /-- The keypad, `true` when pressed (R34). -/
  key : Vector Bool 16
  /-- The framebuffer `FB` (R35). -/
  fb : Framebuffer
  /-- The fault register (R36). -/
  fault : FaultCode
  /-- The output `frame_dirty` of the last step (R37, log 22). -/
  frameDirty : Bool
  /-- The output `beep` of the last step (R37, log 22). -/
  beep : Bool
  /-- THE MODEL'S OWN: how many random bytes have been drawn; it selects the next free byte of CXNN (log 2, log 3). -/
  draws : Nat
deriving DecidableEq, Repr

/-- The machine right after `init()` (R200, R41): memory lists nothing, so it reads as the font and zeros (R57);
the pc is at the entry point 0x200 (R201). -/
def State.reset : State where
  mem := []
  v := Vector.replicate 16 0
  i := 0
  pc := 0x200
  stack := []
  dt := 0
  st := 0
  key := Vector.replicate 16 false
  fb := Vector.replicate 32 (Vector.replicate 64 false)
  fault := .none
  frameDirty := false
  beep := false
  draws := 0

end Sys2Proof.Machine
end

