-- ==== Sys2Proof/Machine/Ops.lean ====
section
/-! DEFINITION. The named operations over the state: memory, registers, program counter, call stack, framebuffer, timers, and TAKING A FAULT as one shared operation (spec/20_memory.md, spec/10_state.md, spec/40_step_cycle.md R94, spec/60_exceptions.md R176). -/

namespace Sys2Proof.Machine

/-- What a meaning and a step answer. -/
abbrev Result := Host.Outcome State Fault Refusal

/-! ### Memory -/

/-- What an address that memory does not list reads as: the reset contents, the font at 0 to 79 and zero elsewhere
(R57, R200; log 5). -/
def resetByte (a : Nat) : Byte := Config.font.toList.getD a 0

/-- `MemRead(a, 1)` (R9). Callers check the bound first (R56); above 4095 it gives 0 and nobody asks (log 19). -/
def memRead : Memory → Nat → Byte
  | [], a => resetByte a
  | (k, b) :: m, a => if k = a then b else memRead m a

/-- The entry for address `a` holding `b` in front of `m`, or nothing where `b` is what `a` reads as unlisted. -/
def memCons (a : Nat) (b : Byte) (m : Memory) : Memory := if b = resetByte a then m else (a, b) :: m

/-- `MemWrite(a, 1, b)` (R9), keeping the canonical form. Callers check the bound first (R56). -/
def memWrite : Memory → Nat → Byte → Memory
  | [], a, b => memCons a b []
  | (k, c) :: m, a, b =>
    if a < k then memCons a b ((k, c) :: m)
    else if a = k then memCons a b m
    else (k, c) :: memWrite m a b

/-- The canonical form from address `lo` on: addresses rise strictly from `lo`, lie below 4096, and no entry holds
what its address reads as unlisted. -/
def memWfFrom : Nat → Memory → Bool
  | _, [] => true
  | lo, (k, b) :: m => decide (lo ≤ k) && decide (k < Config.memSize) && decide (b ≠ resetByte k) && memWfFrom (k + 1) m

/-- The canonical form of memory (log 5): equal memories are equal lists. -/
def Memory.wf (m : Memory) : Bool := memWfFrom 0 m

/-- The `n` bytes at `a`, `a + 1`, … in rising order (R53). -/
def loadBytes (m : Memory) (a : Nat) : Nat → List Byte
  | 0 => []
  | n + 1 => memRead m a :: loadBytes m (a + 1) n

/-- Store bytes at `a`, `a + 1`, … in rising order (R53). -/
def storeBytes (m : Memory) (a : Nat) : List Byte → Memory
  | [] => m
  | b :: bs => storeBytes (memWrite m a b) (a + 1) bs

/-- The extent check of R141: `n` bytes at `base` lie inside memory; no check when `n = 0`. -/
def extentOk (base n : Nat) : Bool := decide (n = 0) || decide (base + n ≤ Config.memSize)

/-- The byte of the state's memory at an address. -/
def readMem (s : State) (a : Nat) : Byte := memRead s.mem a

/-- Store bytes from an address on in the state's memory. -/
def writeMem (a : Nat) (bs : List Byte) (s : State) : State := { s with mem := storeBytes s.mem a bs }

/-! ### Registers -/

/-- Read general register `x` (R20). No register is hardwired. -/
def readV (s : State) (x : Reg) : Byte := s.v[x]

/-- Write general register `x` (R20), `VF` like any other (R22). -/
def writeV (x : Reg) (b : Byte) (s : State) : State := { s with v := s.v.set x b }

/-- Write the registers `V0` to `VX`, register `r` receiving `f r`, and leave those above `VX` alone (R147). -/
def writeVUpTo (x : Reg) (f : Nat → Byte) (s : State) : State :=
  { s with v := Vector.ofFn fun r => if r.val ≤ x.val then f r.val else s.v[r] }

/-- Write the index register (R23). -/
def setI (w : Word) (s : State) : State := { s with i := w }

/-- Assign the program counter (R26). -/
def setPc (w : Word) (s : State) : State := { s with pc := w }

/-- Straight-line advance, `pc <- pc0 + 2` (R26). -/
def advance (s : State) : State := setPc (s.pc + 2) s

/-- A skip: `pc0 + 4` when the condition holds, else `pc0 + 2` (R26, R110). -/
def skipIf (c : Bool) (s : State) : State := setPc (if c then s.pc + 4 else s.pc + 2) s

/-! ### Taking a fault -/

/-- TAKING A FAULT (R176): nothing of the step is kept, so `s` is the state at the start of the step; both outputs
are 0 and the fault register receives the code. There is no handler, no saved pc and no mode change, and no return
from a fault exists (R178): `stepIn` gives the resulting state no successor. -/
def raise (f : FaultCode) (s : State) : Result := .next { s with fault := f, frameDirty := false, beep := false }

/-! ### Call stack -/

/-- The stack depth `sp` (R28). -/
def sp (s : State) : Nat := s.stack.length

/-- The live entry `stack[k]`, `k` counted from the bottom (R28): `none` where no entry is live. -/
def stackEntry (s : State) (k : Nat) : Option Word := s.stack.reverse[k]?

/-- `Push(w)` (R30): the fault StackOverflow when 16 entries are live. -/
def push (w : Word) (s : State) : Except FaultCode State :=
  if sp s = Config.stackDepth then .error .stackOverflow else .ok { s with stack := w :: s.stack }

/-- `Pop()` (R31): the fault StackUnderflow when no entry is live. -/
def pop (s : State) : Except FaultCode (Word × State) :=
  match s.stack with
  | [] => .error .stackUnderflow
  | w :: rest => .ok (w, { s with stack := rest })

/-! ### Framebuffer -/

/-- The cell at column `x`, row `y` (R35). Callers stay on the screen; elsewhere it reads as 0 (log 19). -/
def cell (fb : Framebuffer) (x y : Nat) : Bool :=
  if h : y < 32 ∧ x < 64 then (fb[y]'h.1)[x]'h.2 else false

/-- XOR the cell at column `x`, row `y` with 1 (R152, R156). Callers stay on the screen; elsewhere nothing changes (log 19). -/
def flipCell (fb : Framebuffer) (x y : Nat) : Framebuffer :=
  if h : y < 32 ∧ x < 64 then fb.set y ((fb[y]'h.1).set x (!((fb[y]'h.1)[x]'h.2)) h.2) h.1 else fb

/-- The cleared framebuffer (R150). -/
def clearedFb : Framebuffer := Vector.replicate 32 (Vector.replicate 64 false)

/-- Replace the framebuffer. -/
def setFb (fb : Framebuffer) (s : State) : State := { s with fb := fb }

/-- `frame_dirty <- 1` (R152). -/
def markDirty (s : State) : State := { s with frameDirty := true }

/-! ### Timers, random bytes, outputs -/

/-- Write the delay timer (R32). -/
def setDt (b : Byte) (s : State) : State := { s with dt := b }

/-- Write the sound timer (R33). -/
def setSt (b : Byte) (s : State) : State := { s with st := b }

/-- One decrement with floor zero (R94). -/
def decTimer (b : Byte) : Byte := if b = 0 then 0 else b - 1

/-- `Tick()` (R94): both timers fall by one with floor zero; the beep is set when the sound timer goes from 1 to 0. -/
def tick (s : State) : State :=
  { s with dt := decTimer s.dt, st := decTimer s.st, beep := if s.st = 1 then true else s.beep }

/-- The free byte of this draw (R134, log 2). -/
def randomByte (s : State) : Byte := Config.rnd s.draws

/-- Count one draw, so that the next CXNN takes a fresh free byte (log 2). -/
def countDraw (s : State) : State := { s with draws := s.draws + 1 }

/-- The start of a step: `frame_dirty <- 0 ; beep <- 0` (R90, R95). -/
def clearOutputs (s : State) : State := { s with frameDirty := false, beep := false }

end Sys2Proof.Machine
end

