-- ==== Sys2Proof/Machine/Flags.lean ====
section
/-! DEFINITION. The flag register VF: what the three instructions that write it as a flag put there (spec/10_state.md R22, spec/43_alu.md R127 to R129, spec/45_display.md R152). -/

namespace Sys2Proof.Machine

/-- A flag as the byte VF receives: 1 or 0 (R22). -/
def flagByte (c : Bool) : Byte := if c then 1 else 0

/-- Carry of 8XY4: the exact sum exceeds 255 (R128). -/
def carry (a b : Byte) : Bool := decide (a.toNat + b.toNat > 255)

/-- Not-borrow of 8XY5: `b > a` does not hold (R129). -/
def notBorrow (a b : Byte) : Bool := !decide (b.toNat > a.toNat)

/-- Write a flag to VF. Meanings call it after every other register write (R127, log 13). -/
def writeFlag (c : Bool) (s : State) : State := writeV vf (flagByte c) s

end Sys2Proof.Machine
end

