-- ==== Sys2Proof/Machine/Alu.lean ====
section
/-! DEFINITION. The register load, arithmetic, logic and random instructions 6XNN, 7XNN, 8XY0 to 8XYE, CXNN (spec/43_alu.md R120 to R135). -/

namespace Sys2Proof.Machine

/-- The common shape of a straight-line register write: `V[x] <- b ; pc <- pc0 + 2` (R120). -/
def loadReg (x : Reg) (b : Byte) (s : State) : Result := .next (advance (writeV x b s))

/-- 6XNN `LD Vx, NN` (R121). -/
def execLdImm (x : Reg) (nn : Byte) (s : State) : Result := loadReg x nn s

/-- 7XNN `ADD Vx, NN`, modulo 256, VF not written (R122). -/
def execAddImm (x : Reg) (nn : Byte) (s : State) : Result := loadReg x (readV s x + nn) s

/-- 8XY0 `LD Vx, Vy` (R123). -/
def execLdReg (x y : Reg) (s : State) : Result := loadReg x (readV s y) s

/-- 8XY1 `OR Vx, Vy`, VF not written (R124). -/
def execOrReg (x y : Reg) (s : State) : Result := loadReg x (readV s x ||| readV s y) s

/-- 8XY2 `AND Vx, Vy`, VF not written (R125). -/
def execAndReg (x y : Reg) (s : State) : Result := loadReg x (readV s x &&& readV s y) s

/-- 8XY3 `XOR Vx, Vy`, VF not written (R126). -/
def execXorReg (x y : Reg) (s : State) : Result := loadReg x (readV s x ^^^ readV s y) s

/-- 8XY4 `ADD Vx, Vy` (R128): both operands read first, VF written last (R127, log 13). -/
def execAddReg (x y : Reg) (s : State) : Result :=
  let a := readV s x
  let b := readV s y
  .next (advance (writeFlag (carry a b) (writeV x (a + b) s)))

/-- 8XY5 `SUB Vx, Vy` (R129): both operands read first, VF written last (R127, log 13). -/
def execSubReg (x y : Reg) (s : State) : Result :=
  let a := readV s x
  let b := readV s y
  .next (advance (writeFlag (notBorrow a b) (writeV x (a - b) s)))

/-- 8XY6 `SHR Vx, Vy`: takes UnsupportedOpcode (R130, R78); the operands are decoded and unused. -/
def execShr (_x _y : Reg) (s : State) : Result := raise .unsupportedOpcode s

/-- 8XY7 `SUBN Vx, Vy`: takes UnsupportedOpcode (R131, R78). -/
def execSubn (_x _y : Reg) (s : State) : Result := raise .unsupportedOpcode s

/-- 8XYE `SHL Vx, Vy`: takes UnsupportedOpcode (R132, R78). -/
def execShl (_x _y : Reg) (s : State) : Result := raise .unsupportedOpcode s

/-- CXNN `RND Vx, NN` (R134): the byte drawn is free (log 2). -/
def execRnd (x : Reg) (nn : Byte) (s : State) : Result := loadReg x (randomByte s &&& nn) (countDraw s)

end Sys2Proof.Machine
end

