-- ==== Sys2Proof/Machine/Operands.lean ====
section
/-! DEFINITION. The operand forms: immediates widened with zeros, the key and glyph index, the I-based address, the decimal digits of FX33, the sprite of DXYN (spec/30_encoding.md R73, spec/44_index_memory.md R143 to R145, spec/45_display.md R151 to R153). -/

namespace Sys2Proof.Machine

/-- `zext_16(NNN)` (R73). -/
def addrWord (nnn : Addr12) : Word := nnn.setWidth 16

/-- `zext_16(V[0]) + zext_16(NNN)`, the target of BNNN, never reduced (R104). -/
def indexedTarget (v0 : Byte) (nnn : Addr12) : Word := v0.setWidth 16 + addrWord nnn

/-- The low nibble of a register value, `b & 0xF`, as an index 0 to 15 (R73). -/
def lowNibble (b : Byte) : Fin 16 := (b.extractLsb' 0 4).toFin

/-- Whether key `V[X] & 0xF` is pressed (R115, R116). -/
def keyPressed (s : State) (x : Reg) : Bool := s.key[lowNibble (readV s x)]

/-- The address of a font glyph, `5 × (b & 0xF)` (R143). -/
def glyphAddress (b : Byte) : Word := BitVec.ofNat 16 (Config.glyphBytes * (lowNibble b).val)

/-- The base address of an I-based access, a natural number (R145). -/
def baseAddress (s : State) : Nat := s.i.toNat

/-- The three decimal digits of a byte: hundreds, tens, units (R144). -/
def decimalDigits (b : Byte) : List Byte :=
  [BitVec.ofNat 8 (b.toNat / 100), BitVec.ofNat 8 (b.toNat / 10 % 10), BitVec.ofNat 8 (b.toNat % 10)]

/-- The values of `V0` to `VX` in rising order (R146). -/
def regsUpTo (s : State) (x : Reg) : List Byte := s.v.toList.take (x.val + 1)

/-! ### Sprites -/

/-- The cells under the 1 bits of one sprite row whose bit 7 is at column `x0` of row `y`, left to right (R151, R152). -/
def rowTargets (x0 y : Nat) (row : Byte) : List (Nat × Nat) :=
  ((List.range 8).filter fun c => row.getLsbD (7 - c)).map fun c => (x0 + c, y)

/-- The cells under the 1 bits of a sprite, top row first, as (column, row) (R152). Coordinates are exact naturals,
never reduced (R151, R153). -/
def spriteTargets (x0 y0 : Nat) : List Byte → List (Nat × Nat)
  | [] => []
  | row :: rows => rowTargets x0 y0 row ++ spriteTargets x0 (y0 + 1) rows

/-- Every target cell is on the screen: column at most 63, row at most 31 (R153). Only cells under 1 bits are
targets (D9, log 11). -/
def onScreen (targets : List (Nat × Nat)) : Bool := targets.all fun p => decide (p.1 < 64) && decide (p.2 < 32)

/-- XOR the target cells one after another, left to right; the flag is true when some cell went from 1 to 0 (R152). -/
def composite (fb : Framebuffer) : List (Nat × Nat) → Framebuffer × Bool
  | [] => (fb, false)
  | p :: ps =>
    ((composite (flipCell fb p.1 p.2) ps).1, cell fb p.1 p.2 || (composite (flipCell fb p.1 p.2) ps).2)

end Sys2Proof.Machine
end

