-- ==== Sys2Proof/Machine/ControlFlow.lean ====
section
/-! DEFINITION. The control-flow instructions 00EE, 1NNN, 2NNN, BNNN (spec/41_control_flow.md R100 to R105). -/

namespace Sys2Proof.Machine

/-- 00EE `RET` (R101). -/
def execRet (s : State) : Result :=
  match pop s with
  | .error f => raise f s
  | .ok (w, t) => .next (setPc w t)

/-- 1NNN `JP NNN` (R102). -/
def execJp (nnn : Addr12) (s : State) : Result := .next (setPc (addrWord nnn) s)

/-- 2NNN `CALL NNN` (R103): the pushed value is `pc0 + 2` (C1, log 14). -/
def execCall (nnn : Addr12) (s : State) : Result :=
  match push (s.pc + 2) s with
  | .error f => raise f s
  | .ok t => .next (setPc (addrWord nnn) t)

/-- BNNN `JP V0, NNN` (R104). -/
def execJpV0 (nnn : Addr12) (s : State) : Result := .next (setPc (indexedTarget (readV s 0) nnn) s)

end Sys2Proof.Machine
end

