-- ==== Sys2Proof/Machine/IndexMemory.lean ====
section
/-! DEFINITION. The index register and memory instructions ANNN, FX1E, FX29, FX33, FX55, FX65 (spec/44_index_memory.md R140 to R147). -/

namespace Sys2Proof.Machine

/-- Do `go` where `n` bytes at I lie inside memory; otherwise take OutOfBoundsMemoryAccess with nothing done (R141). -/
def withExtent (n : Nat) (s : State) (go : Result) : Result :=
  if extentOk (baseAddress s) n then go else raise .outOfBoundsMemoryAccess s

/-- ANNN `LD I, NNN` (R140). -/
def execLdI (nnn : Addr12) (s : State) : Result := .next (advance (setI (addrWord nnn) s))

/-- FX1E `ADD I, Vx`: takes UnsupportedOpcode (R142, R78). -/
def execAddIVx (_x : Reg) (s : State) : Result := raise .unsupportedOpcode s

/-- FX29 `LD F, Vx` (R143). -/
def execLdFVx (x : Reg) (s : State) : Result := .next (advance (setI (glyphAddress (readV s x)) s))

/-- FX33 `LD B, Vx` (R144). -/
def execLdBVx (x : Reg) (s : State) : Result :=
  withExtent 3 s (.next (advance (writeMem (baseAddress s) (decimalDigits (readV s x)) s)))

/-- FX55 `LD [I], Vx` (R146). -/
def execStRegs (x : Reg) (s : State) : Result :=
  withExtent (x.val + 1) s (.next (advance (writeMem (baseAddress s) (regsUpTo s x) s)))

/-- FX65 `LD Vx, [I]` (R147). -/
def execLdRegs (x : Reg) (s : State) : Result :=
  withExtent (x.val + 1) s (.next (advance (writeVUpTo x (fun k => readMem s (baseAddress s + k)) s)))

end Sys2Proof.Machine
end

