-- ==== Sys2Proof/Machine/Display.lean ====
section
/-! DEFINITION. The display instructions 00E0 and DXYN (spec/45_display.md R150 to R156). -/

namespace Sys2Proof.Machine

/-- 00E0 `CLS` (R150): `frame_dirty` is not set (C2). -/
def execCls (s : State) : Result := .next (advance (setFb clearedFb s))

/-- The cells a DXYN in state `s` targets (R151, R152; the operand binding is log 10). -/
def drawTargets (x y : Reg) (n : Fin 16) (s : State) : List (Nat × Nat) :=
  spriteTargets (readV s x).toNat (readV s y).toNat (loadBytes s.mem (baseAddress s) n.val)

/-- A DXYN whose checks have passed (R152): composite, then VF, then `frame_dirty`, then the pc. -/
def drawn (targets : List (Nat × Nat)) (s : State) : State :=
  advance (markDirty (writeFlag (composite s.fb targets).2 (setFb (composite s.fb targets).1 s)))

/-- DXYN `DRW Vx, Vy, N` (R152): the source extent is tested first, then every target cell, then the sprite is drawn
(R153, R155). -/
def execDrw (x y : Reg) (n : Fin 16) (s : State) : Result :=
  withExtent n.val s
    (if onScreen (drawTargets x y n s) then .next (drawn (drawTargets x y n s) s) else raise .outOfBoundsMemoryAccess s)

end Sys2Proof.Machine
end

