-- ==== Sys2Proof/Machine/Skip.lean ====
section
/-! DEFINITION. The conditional skips 3XNN, 4XNN, 5XY0, 9XY0, EX9E, EXA1 (spec/42_skip.md R110 to R116). -/

namespace Sys2Proof.Machine

/-- 3XNN `SE Vx, NN` (R111). -/
def execSeImm (x : Reg) (nn : Byte) (s : State) : Result := .next (skipIf (readV s x == nn) s)

/-- 4XNN `SNE Vx, NN` (R112). -/
def execSneImm (x : Reg) (nn : Byte) (s : State) : Result := .next (skipIf (readV s x != nn) s)

/-- 5XY0 `SE Vx, Vy` (R113). -/
def execSeReg (x y : Reg) (s : State) : Result := .next (skipIf (readV s x == readV s y) s)

/-- 9XY0 `SNE Vx, Vy` (R114). -/
def execSneReg (x y : Reg) (s : State) : Result := .next (skipIf (readV s x != readV s y) s)

/-- EX9E `SKP Vx` (R115). -/
def execSkp (x : Reg) (s : State) : Result := .next (skipIf (keyPressed s x) s)

/-- EXA1 `SKNP Vx` (R116). -/
def execSknp (x : Reg) (s : State) : Result := .next (skipIf (!keyPressed s x) s)

end Sys2Proof.Machine
end

