-- ==== Sys2Proof/Machine/TimerKey.lean ====
section
/-! DEFINITION. The timer and key-wait instructions FX07, FX0A, FX15, FX18 (spec/46_timer_key.md R160 to R163). The tick follows in the same step (spec/40_step_cycle.md R94). -/

namespace Sys2Proof.Machine

/-- FX07 `LD Vx, DT` (R160): the value before this step's tick. -/
def execLdVxDt (x : Reg) (s : State) : Result := .next (advance (writeV x s.dt s))

/-- FX0A `LD Vx, K`: takes UnsupportedOpcode (R161, R78); it does not wait. -/
def execLdVxK (_x : Reg) (s : State) : Result := raise .unsupportedOpcode s

/-- FX15 `LD DT, Vx` (R162). -/
def execLdDtVx (x : Reg) (s : State) : Result := .next (advance (setDt (readV s x) s))

/-- FX18 `LD ST, Vx` (R163). -/
def execLdStVx (x : Reg) (s : State) : Result := .next (advance (setSt (readV s x) s))

end Sys2Proof.Machine
end

