-- ==== Sys2Proof/Machine/Cycle.lean ====
section
/-! DEFINITION. The step cycle around the instructions: fetch, decode, execute, timer tick (spec/40_step_cycle.md R90 to R99). -/

namespace Sys2Proof.Machine

/-- The fetch bound: both `pc` and `pc + 1` lie in memory (R91). -/
def fetchOk (s : State) : Bool := decide (s.pc.toNat ≤ 4094)

/-- The two bytes fetched (R91, R53). -/
def fetchBytes (s : State) : List Byte := loadBytes s.mem s.pc.toNat 2

/-- Phase 4: the tick ends every step that did not fault, under `PerStep` only (R94, R99). -/
def afterExecute (mode : TimerMode) (t : State) : State :=
  if t.fault = .none then
    match mode with
    | .perStep => tick t
    | .external => t
  else t

/-- Phases 3 and 4 for a decoded instruction (R90). -/
def runInstr (mode : TimerMode) (i : Instr) (s : State) : Result :=
  match exec i s with
  | .next t => .next (afterExecute mode t)
  | .fault r => .fault r
  | .refused r => .refused r

/-- Phases 1 to 4 from a state whose outputs have been cleared (R90): fetch bound, decode, execute, tick. An illegal
word takes UnsupportedOpcode (R171). -/
def runStep (mode : TimerMode) (s : State) : Result :=
  if fetchOk s then
    match decodeBytes (fetchBytes s) with
    | .error _ => raise .unsupportedOpcode s
    | .ok i => runInstr mode i s
  else raise .outOfBoundsMemoryAccess s

/-- `step()` under a `TIMER_MODE` (R90, R99). A faulted machine has no step (R98). -/
def stepIn (mode : TimerMode) (s : State) : Result :=
  if s.fault = .none then runStep mode (clearOutputs s) else .fault (.terminated s.fault)

/-- `s` with the word `w` at the program counter, high byte first (R53): unchanged where no word can lie there. -/
def placeWord (s : State) (w : Word) : State :=
  if fetchOk s then writeMem s.pc.toNat (bytesOfWord w) s else s

end Sys2Proof.Machine
end

