-- ==== Sys2Proof/Machine/Step.lean ====
section
/-! DEFINITION. The step of the machine under the default `TIMER_MODE`, and the placing of a word where it fetches (spec/40_step_cycle.md R90). -/

namespace Sys2Proof.Machine

/-- One step of the machine: three outcomes, `TIMER_MODE` at its default (R90, log 6). -/
def step (s : State) : Host.Outcome State Fault Refusal := stepIn Config.timerMode s

/-- `s` with the instruction whose bits are `w` (numbered as spec/opcode_table.json numbers them) stored where `step`
fetches its next instruction. It stands for the host's `load` (log 7). -/
def State.withFetchWord (s : State) (nbits w : Nat) : State := placeWord s (tableWord nbits w)

end Sys2Proof.Machine
end

