-- ==== Sys2Proof/Machine/HostOps.lean ====
section
/-! DEFINITION. The host's operations beside `step()`: atomic transactions between steps (spec/60_exceptions.md R187 to R189, spec/70_reset_and_hazards.md R200 to R204, spec/40_step_cycle.md R99). -/

namespace Sys2Proof.Machine

/-- `init()` with a given `FONT`, from any state, faulted or not (R200, D24): everything at its reset value and the
font at address 0. The random source is not reset (R202), so the count of draws is kept (log 3). -/
def initWith (font : Vector Byte 80) (s : State) : State :=
  { writeMem 0 font.toList State.reset with draws := s.draws }

/-- `init()` with the default `FONT` (R200). -/
def init (s : State) : State := { State.reset with draws := s.draws }

/-- `load(bytes)`: the first 3584 bytes to 0x200 and up (R203). -/
def load (bytes : List Byte) (s : State) : State := writeMem Config.progBase (bytes.take Config.progMax) s

/-- `init()` and then `load(bytes)`: the launch state of a program (R204). -/
def launch (bytes : List Byte) (s : State) : State := load bytes (init s)

/-- Set one key bit. -/
def setKey (k : Fin 16) (b : Bool) (s : State) : State := { s with key := s.key.set k b }

/-- `on_key_down(k)` (R187). -/
def keyDown (k : Fin 16) (s : State) : State := setKey k true s

/-- `on_key_up(k)` (R187). -/
def keyUp (k : Fin 16) (s : State) : State := setKey k false s

/-- `framebuffer()`: the whole grid, read only (R188). -/
def framebuffer (s : State) : Framebuffer := s.fb

/-- `frame_dirty()`: the output of the last completed step (R188). -/
def frameDirtyOutput (s : State) : Bool := s.frameDirty

/-- `tick()`, the host operation of `TIMER_MODE = External`: the same `Tick()` (R99, log 9). -/
def hostTick (s : State) : State := tick s

/-- What `tick()` returns: the `beep` output after it (R189). -/
def hostTickBeep (s : State) : Bool := (hostTick s).beep

end Sys2Proof.Machine
end

