-- ==== Sys2Proof/Safety.lean ====
section
/-! DEFINITION. What claims are stated in terms of: the unchanged parts of the state, the invariant of spec/10_state.md R43, the states a host can reach (spec/60_exceptions.md R189, spec/70_reset_and_hazards.md R204), and the end of a run (spec/60_exceptions.md R193). -/

namespace Sys2Proof.Machine

/-- Every byte of memory reads as before. -/
def SameMemory (s t : State) : Prop := ∀ a, readMem t a = readMem s a

/-- Every general register reads as before. -/
def SameRegs (s t : State) : Prop := ∀ r, readV t r = readV s r

/-- Every general register but `x` reads as before. -/
def SameRegsBut (x : Reg) (s t : State) : Prop := ∀ r, r ≠ x → readV t r = readV s r

/-- The keypad and the fault register are as before: no completing instruction changes them (R34, R36). -/
def SameInputs (s t : State) : Prop := t.key = s.key ∧ t.fault = s.fault

/-- Both timers are as before. -/
def SameTimers (s t : State) : Prop := t.dt = s.dt ∧ t.st = s.st

/-- The framebuffer and both outputs are as before. -/
def SameDisplay (s t : State) : Prop := t.fb = s.fb ∧ t.frameDirty = s.frameDirty ∧ t.beep = s.beep

/-- Everything but the general registers, the pc and the count of draws is as before: memory, I, the call stack, the
timers, the keypad, the display, the fault register. -/
def SameBesidesRegs (s t : State) : Prop :=
  SameMemory s t ∧ t.i = s.i ∧ t.stack = s.stack ∧ SameTimers s t ∧ SameDisplay s t ∧ SameInputs s t

/-- Everything but the pc is as before. -/
def SameBesidesPc (s t : State) : Prop := SameRegs s t ∧ SameBesidesRegs s t ∧ t.draws = s.draws

/-- The state a faulting step leaves (R176, D6, log 15): the state it started from with the code in the fault register
and both outputs 0. -/
def faulted (f : FaultCode) (s : State) : State := { s with fault := f, frameDirty := false, beep := false }

/-- The five named rows that are decoded only to fault (R78). -/
def unimplemented : Instr → Bool
  | .cls => false
  | .ret => false
  | .jp _ => false
  | .call _ => false
  | .seImm _ _ => false
  | .sneImm _ _ => false
  | .seReg _ _ => false
  | .ldImm _ _ => false
  | .addImm _ _ => false
  | .ldReg _ _ => false
  | .orReg _ _ => false
  | .andReg _ _ => false
  | .xorReg _ _ => false
  | .addReg _ _ => false
  | .subReg _ _ => false
  | .shr _ _ => true
  | .subn _ _ => true
  | .shl _ _ => true
  | .sneReg _ _ => false
  | .ldI _ => false
  | .jpV0 _ => false
  | .rnd _ _ => false
  | .drw _ _ _ => false
  | .skp _ => false
  | .sknp _ => false
  | .ldVxDt _ => false
  | .ldVxK _ => true
  | .ldDtVx _ => false
  | .ldStVx _ => false
  | .addIVx _ => true
  | .ldFVx _ => false
  | .ldBVx _ => false
  | .stRegs _ => false
  | .ldRegs _ => false

/-- The registers an instruction may write: the column "Writes" of R21's table. -/
def writesReg : Instr → Reg → Bool
  | .cls, _ => false
  | .ret, _ => false
  | .jp _, _ => false
  | .call _, _ => false
  | .seImm _ _, _ => false
  | .sneImm _ _, _ => false
  | .seReg _ _, _ => false
  | .ldImm x _, r => r == x
  | .addImm x _, r => r == x
  | .ldReg x _, r => r == x
  | .orReg x _, r => r == x
  | .andReg x _, r => r == x
  | .xorReg x _, r => r == x
  | .addReg x _, r => r == x || r == vf
  | .subReg x _, r => r == x || r == vf
  | .shr _ _, _ => false
  | .subn _ _, _ => false
  | .shl _ _, _ => false
  | .sneReg _ _, _ => false
  | .ldI _, _ => false
  | .jpV0 _, _ => false
  | .rnd x _, r => r == x
  | .drw _ _ _, r => r == vf
  | .skp _, _ => false
  | .sknp _, _ => false
  | .ldVxDt x, r => r == x
  | .ldVxK _, _ => false
  | .ldDtVx _, _ => false
  | .ldStVx _, _ => false
  | .addIVx _, _ => false
  | .ldFVx _, _ => false
  | .ldBVx _, _ => false
  | .stRegs _, _ => false
  | .ldRegs x, r => decide (r ≤ x)

/-- How an instruction leaves the pc: the classes of R26's table. -/
inductive PcClass where
  | straightLine
  | skip (holds : Bool)
  | absolute (nnn : Addr12)
  | indexed (nnn : Addr12)
  | popped
  | fault
deriving DecidableEq, Repr

/-- The class of each instruction in R26's table, with the condition a skip evaluates (R111 to R116). -/
def pcClass (s : State) : Instr → PcClass
  | .cls => .straightLine
  | .ret => .popped
  | .jp nnn => .absolute nnn
  | .call nnn => .absolute nnn
  | .seImm x nn => .skip (decide (readV s x = nn))
  | .sneImm x nn => .skip (decide (readV s x ≠ nn))
  | .seReg x y => .skip (decide (readV s x = readV s y))
  | .ldImm _ _ => .straightLine
  | .addImm _ _ => .straightLine
  | .ldReg _ _ => .straightLine
  | .orReg _ _ => .straightLine
  | .andReg _ _ => .straightLine
  | .xorReg _ _ => .straightLine
  | .addReg _ _ => .straightLine
  | .subReg _ _ => .straightLine
  | .shr _ _ => .fault
  | .subn _ _ => .fault
  | .shl _ _ => .fault
  | .sneReg x y => .skip (decide (readV s x ≠ readV s y))
  | .ldI _ => .straightLine
  | .jpV0 nnn => .indexed nnn
  | .rnd _ _ => .straightLine
  | .drw _ _ _ => .straightLine
  | .skp x => .skip (keyPressed s x)
  | .sknp x => .skip (!keyPressed s x)
  | .ldVxDt _ => .straightLine
  | .ldVxK _ => .fault
  | .ldDtVx _ => .straightLine
  | .ldStVx _ => .straightLine
  | .addIVx _ => .fault
  | .ldFVx _ => .straightLine
  | .ldBVx _ => .straightLine
  | .stRegs _ => .straightLine
  | .ldRegs _ => .straightLine

/-- The sprite of a DXYN in state `s` has a 1 bit over column `col`, row `row`: some row `r` below `n` and column `c`
below 8 with bit `7 - c` of `mem[I + r]` set, `col = V[X] + c`, `row = V[Y] + r` (R152, read without the model's
drawing functions; the operand binding is log 10). -/
def SpriteOver (s : State) (x y : Reg) (n : Fin 16) (col row : Nat) : Prop :=
  ∃ r c : Nat, r < n.val ∧ c < 8 ∧ (readMem s (s.i.toNat + r)).getLsbD (7 - c) = true ∧
    col = (readV s x).toNat + c ∧ row = (readV s y).toNat + r

/-- The sprite's source bytes lie in memory (R153 a; no test when `n = 0`). -/
def SpriteInMemory (s : State) (n : Fin 16) : Prop := n.val = 0 ∨ s.i.toNat + n.val ≤ 4096

/-- Every cell under a 1 bit of the sprite is on the screen (R153 b). -/
def SpriteOnScreen (s : State) (x y : Reg) (n : Fin 16) : Prop :=
  ∀ col row, SpriteOver s x y n col row → col ≤ 63 ∧ row ≤ 31

/-- The byte at address `a` after an FX55 that completed: the register stored there, else the byte as it was (R146, read
without the model's store). -/
def byteAfterRegs (x : Reg) (s : State) (a : Nat) : Byte :=
  if h : s.i.toNat ≤ a ∧ a ≤ s.i.toNat + x.val then readV s ⟨a - s.i.toNat, by have := x.isLt; omega⟩ else readMem s a

/-- The byte at address `a` after an FX33 that completed: the decimal digit stored there, else the byte as it was (R144,
read without the model's store). -/
def byteAfterDigits (x : Reg) (s : State) (a : Nat) : Byte :=
  if a = s.i.toNat then BitVec.ofNat 8 ((readV s x).toNat / 100)
  else if a = s.i.toNat + 1 then BitVec.ofNat 8 ((readV s x).toNat / 10 % 10)
  else if a = s.i.toNat + 2 then BitVec.ofNat 8 ((readV s x).toNat % 10)
  else readMem s a

/-- What the decoder reads at the pc (R91, R92). -/
def fetched (s : State) : Except DecodeError Instr := decodeBytes (fetchBytes s)

/-- The invariant of R43, with the canonical form of memory. (Widths are the types of the fields.) -/
def StateInv (s : State) : Prop :=
  s.mem.wf = true ∧ s.i.toNat ≤ 4095 ∧ s.pc.toNat ≤ 4350 ∧ sp s ≤ 16 ∧
    ∀ w ∈ s.stack, 2 ≤ w.toNat ∧ w.toNat ≤ 4096

/-- The states a host that keeps its contract can bring the machine to (R189, R204), under a `TIMER_MODE`: `init()` with
any font and then at most one `load`, from any earlier count of draws; then steps, key events and, under `External`,
ticks. -/
inductive Reachable (mode : TimerMode) : State → Prop where
  | launch (font : Vector Byte 80) (bytes : List Byte) (old : State) : Reachable mode (load bytes (initWith font old))
  | step (s t : State) : Reachable mode s → stepIn mode s = .next t → Reachable mode t
  | keyDown (k : Fin 16) (s : State) : Reachable mode s → Reachable mode (keyDown k s)
  | keyUp (k : Fin 16) (s : State) : Reachable mode s → Reachable mode (keyUp k s)
  | tick (s : State) : mode = .external → Reachable mode s → Reachable mode (hostTick s)

/-- A program has finished: it sits on a jump to itself, unfaulted (R193). The definition is the spec's own (D27). -/
def Finished (s : State) : Prop :=
  s.fault = .none ∧ fetchOk s = true ∧
    decodeBytes (fetchBytes s) = .ok (.jp (s.pc.setWidth 12))

end Sys2Proof.Machine
end

