-- ==== Sys2Proof/Certificates/Slice0/Obligations.lean ====
section
/-! DEFINITION. The statements for the provers. Each docstring names the rule of spec/ it formalises; where a statement rests on a decision the spec marks as its own (D<n>) or on a log entry, the docstring says so. -/

open Sys2Proof Sys2Proof.Machine

/-! ### Encoding -/

/-- Words of the decode table in spec/95_test_vectors.md 2.1, at least one for each of the sixteen families (the high nibble,
R71, R74), decode as listed there. -/
def Obligations.ListedWordsDecodeAsListed : Prop :=
  decode 0x00E0 = .ok .cls ∧ decode 0x00EE = .ok .ret ∧ decode 0x1000 = .ok (.jp 0) ∧ decode 0x2FFF = .ok (.call 0xFFF) ∧
  decode 0x3AFF = .ok (.seImm 10 0xFF) ∧ decode 0x4000 = .ok (.sneImm 0 0) ∧ decode 0x5AB0 = .ok (.seReg 10 11) ∧
  decode 0x6F00 = .ok (.ldImm 15 0) ∧ decode 0x7123 = .ok (.addImm 1 0x23) ∧
  decode 0x8AB5 = .ok (.subReg 10 11) ∧ decode 0x8ABE = .ok (.shl 10 11) ∧ decode 0x9AB0 = .ok (.sneReg 10 11) ∧
  decode 0xA000 = .ok (.ldI 0) ∧ decode 0xBFFF = .ok (.jpV0 0xFFF) ∧
  decode 0xC1F0 = .ok (.rnd 1 0xF0) ∧ decode 0xD125 = .ok (.drw 1 2 5) ∧ decode 0xE19E = .ok (.skp 1) ∧
  decode 0xF118 = .ok (.ldStVx 1) ∧ decode 0xF133 = .ok (.ldBVx 1) ∧ decode 0xFF65 = .ok (.ldRegs 15)

/-- Decoding the bytes of an encoded instruction gives the instruction back, for every instruction and every operand
(R72, R76; R81: assembly is the inverse of the opcode map). -/
def Obligations.DecodeOfEncodeIsTheInstruction : Prop := ∀ i : Instr, decodeBytes (encodeBytes i) = .ok i

/-- A word that decodes is the encoding of what it decodes to: no bit of it is ignored (R75, with decision D3). -/
def Obligations.EncodeOfDecodeIsTheWord : Prop := ∀ (w : Word) (i : Instr), decode w = .ok i → encode i = w

/-- Strict decoding (R75, R76, with decision D3): a word decodes exactly when it matches a row of the opcode map, to the
instruction of that row; the map has 34 rows, and no word matches two of them. -/
def Obligations.DecodeFollowsTheOpcodeMap : Prop :=
  opcodeRows.length = 34 ∧
  (∀ w i, decode w = .ok i → i.row ∈ opcodeRows ∧ w &&& i.row.mask = i.row.value) ∧
  (∀ w r, r ∈ opcodeRows → w &&& r.mask = r.value → ∃ i, decode w = .ok i ∧ i.row = r) ∧
  (∀ w r r', r ∈ opcodeRows → r' ∈ opcodeRows → w &&& r.mask = r.value → w &&& r'.mask = r'.value → r = r')

/-- R77 (strict decoding is decision D3, log 12): the words that match no row are exactly the illegal words of the rule's
table, they alone do not decode, and executing one raises UnsupportedOpcode. -/
def Obligations.IllegalWordsAreExactlyTheTable : Prop :=
  (∀ w, wordIllegal w = true ↔ ∀ r ∈ opcodeRows, w &&& r.mask ≠ r.value) ∧
  (∀ w, (∃ e, decode w = .error e) ↔ wordIllegal w = true) ∧
  (∀ mode s b0 b1, s.fault = .none → fetchOk s = true → fetchBytes s = [b0, b1] → wordIllegal (wordOfBytes b0 b1) = true →
    ∃ t, stepIn mode s = .next t ∧ t.fault = .unsupportedOpcode)

/-! ### The step -/

/-- Fetch (R91, R53, with decision D5): with `pc > 4094` the step takes OutOfBoundsMemoryAccess and nothing else changes
(R176, decision D6, log 15); otherwise the opcode is `mem[pc] × 256 + mem[pc + 1]`. -/
def Obligations.FetchIsBoundedAndBigEndian : Prop :=
  (∀ mode s, s.fault = .none → s.pc.toNat > 4094 → stepIn mode s = .next (faulted .outOfBoundsMemoryAccess s)) ∧
  (∀ s, fetched s = decode (BitVec.ofNat 16 ((readMem s s.pc.toNat).toNat * 256 + (readMem s (s.pc.toNat + 1)).toNat)))

/-- A step runs the decoded instruction (R90, R92, R93): with the outputs cleared first, exec of that instruction, then
the tick under `PerStep` when it did not fault (R94, R99; that a faulting step does not tick is decision D6). -/
def Obligations.StepRunsTheDecodedInstruction : Prop :=
  ∀ (s : State) (i : Instr), s.fault = .none → s.pc.toNat ≤ 4094 → fetched s = .ok i →
    step s = stepIn .perStep s ∧
    ∃ t, exec i (clearOutputs s) = .next t ∧
      (t.fault = .none → stepIn .perStep s = .next (tick t) ∧ stepIn .external s = .next t) ∧
      (t.fault ≠ .none → stepIn .perStep s = .next t ∧ stepIn .external s = .next t)

/-- A faulted machine has no step (R98, with decision D6), an unfaulted one always has (R97). -/
def Obligations.StepExistsExactlyWhenNotFaulted : Prop :=
  ∀ mode s, (s.fault ≠ .none → stepIn mode s = .fault (.terminated s.fault)) ∧
    (s.fault = .none → ∃ t, stepIn mode s = .next t)

/-- `Tick()` (R94): both timers fall by one with floor zero, the beep is set when ST was 1, nothing else changes; every
step under `PerStep` that does not fault ends with it. -/
def Obligations.TickLowersBothTimers : Prop :=
  (∀ s, (tick s).dt.toNat = s.dt.toNat - 1 ∧ (tick s).st.toNat = s.st.toNat - 1 ∧
    ((tick s).beep = true ↔ s.st.toNat = 1 ∨ s.beep = true) ∧
    tick s = { s with dt := (tick s).dt, st := (tick s).st, beep := (tick s).beep }) ∧
  (∀ s t, stepIn .perStep s = .next t → t.fault = .none → ∃ u, stepIn .external s = .next u ∧ t = tick u)

/-- The outputs of a step (R95, with decisions D6, D15, D16): `frame_dirty` is 1 exactly when the step completed a DXYN,
`beep` exactly when its tick took ST from 1 to 0, where ST is what FX18 wrote if the step was an FX18. -/
def Obligations.OutputsOfAStep : Prop :=
  ∀ s t, stepIn .perStep s = .next t →
    (t.frameDirty = true ↔ t.fault = .none ∧ ∃ x y n, fetched s = .ok (.drw x y n)) ∧
    (t.beep = true ↔ t.fault = .none ∧
      ((∃ x, fetched s = .ok (.ldStVx x) ∧ readV s x = 1) ∨ ((∀ x, fetched s ≠ .ok (.ldStVx x)) ∧ s.st = 1)))

/-- What taking a fault leaves (R176, the contents being decision D6, log 15): the state before the step with the code in
the fault register and both outputs 0. -/
def Obligations.FaultingStepChangesNothingElse : Prop :=
  ∀ mode s t, stepIn mode s = .next t → t.fault ≠ .none →
    t.v = s.v ∧ t.i = s.i ∧ t.pc = s.pc ∧ t.stack = s.stack ∧ t.mem = s.mem ∧ t.fb = s.fb ∧ t.dt = s.dt ∧ t.st = s.st ∧
      t.key = s.key ∧ t.draws = s.draws ∧ t.frameDirty = false ∧ t.beep = false

/-- When each fault is raised, and that nothing else raises one (R170 to R174; strict decoding is D3, the fetch bound D5,
the draw bound D9, log 11, and the operand binding of DXYN D8, log 10). -/
def Obligations.FaultsAreRaisedExactlyWhen : Prop :=
  ∀ mode s t, stepIn mode s = .next t →
    (t.fault = .unsupportedOpcode ↔ s.pc.toNat ≤ 4094 ∧
      ((∃ e, fetched s = .error e) ∨ ∃ i, fetched s = .ok i ∧ unimplemented i = true)) ∧
    (t.fault = .stackOverflow ↔ s.pc.toNat ≤ 4094 ∧ (∃ nnn, fetched s = .ok (.call nnn)) ∧ sp s = 16) ∧
    (t.fault = .stackUnderflow ↔ s.pc.toNat ≤ 4094 ∧ fetched s = .ok .ret ∧ sp s = 0) ∧
    (t.fault = .outOfBoundsMemoryAccess ↔ s.pc.toNat > 4094 ∨
      (∃ x, fetched s = .ok (.ldBVx x) ∧ s.i.toNat + 2 > 4095) ∨
      (∃ x, fetched s = .ok (.stRegs x) ∧ s.i.toNat + x.val > 4095) ∨
      (∃ x, fetched s = .ok (.ldRegs x) ∧ s.i.toNat + x.val > 4095) ∨
      (∃ x y n, fetched s = .ok (.drw x y n) ∧ ¬ (SpriteInMemory s n ∧ SpriteOnScreen s x y n)))

/-! ### Invariants and whole-machine rules -/

/-- The invariant of R43 holds right after reset. -/
def Obligations.ResetMeetsTheInvariant : Prop := StateInv State.reset

/-- Every step keeps the invariant of R43 (I, pc, stack depth and entries in range) and the canonical form of memory. -/
def Obligations.StepKeepsTheInvariant : Prop := ∀ mode s t, StateInv s → stepIn mode s = .next t → StateInv t

/-- Every state a host that keeps its contract can bring the machine to meets the invariant of R43, whatever the font, the
program, the key events and the ticks (R189, R204). -/
def Obligations.ReachableStatesMeetTheInvariant : Prop := ∀ mode s, Reachable mode s → StateInv s

/-- Canonical memories that read the same at every address are the same list (log 5). -/
def Obligations.CanonicalMemoryIsDeterminedByItsBytes : Prop :=
  ∀ m m' : Memory, m.wf = true → m'.wf = true → (∀ a, memRead m a = memRead m' a) → m = m'

/-- R26: how each class of instruction leaves the pc, and that an instruction that faults leaves it alone (decision D6,
log 15); that BNNN's sum is not reduced is decision D20. -/
def Obligations.PcAfterEachClassOfInstruction : Prop :=
  ∀ i s t, s.fault = .none → exec i s = .next t →
    (t.fault ≠ .none → t.pc = s.pc) ∧
    (t.fault = .none → match pcClass s i with
      | .straightLine => t.pc = s.pc + 2
      | .skip holds => t.pc = if holds then s.pc + 4 else s.pc + 2
      | .absolute nnn => t.pc.toNat = nnn.toNat
      | .indexed nnn => t.pc.toNat = (readV s 0).toNat + nnn.toNat
      | .popped => s.stack.head? = some t.pc
      | .fault => False)

/-- Only the registers in the column "Writes" of R21's table change in a step. -/
def Obligations.RegistersChangeOnlyWhereListed : Prop :=
  ∀ mode s t, stepIn mode s = .next t →
    ∀ r, readV t r ≠ readV s r → ∃ i, fetched s = .ok i ∧ writesReg i r = true

/-- The column "Written by" of R41's table, for memory, I, the call stack, the keypad and the framebuffer: in a step only
these instructions change them, and no step changes a key; and a step only starts unfaulted (R98). -/
def Obligations.StateChangesOnlyByItsWriters : Prop :=
  ∀ mode s t, stepIn mode s = .next t →
    (t.mem ≠ s.mem → ∃ x, fetched s = .ok (.ldBVx x) ∨ fetched s = .ok (.stRegs x)) ∧
    (t.i ≠ s.i → (∃ nnn, fetched s = .ok (.ldI nnn)) ∨ ∃ x, fetched s = .ok (.ldFVx x)) ∧
    (t.stack ≠ s.stack → (∃ nnn, fetched s = .ok (.call nnn)) ∨ fetched s = .ok .ret) ∧
    (t.fb ≠ s.fb → fetched s = .ok .cls ∨ ∃ x y n, fetched s = .ok (.drw x y n)) ∧
    t.key = s.key ∧ s.fault = .none

/-- The timers never rise in a step except by FX15 and FX18 (R164), and under `PerStep` every other completing step
lowers each by one with floor zero (R32, R33). -/
def Obligations.TimersRiseOnlyByTheirWriters : Prop :=
  ∀ mode s t, stepIn mode s = .next t →
    (t.dt.toNat > s.dt.toNat → ∃ x, fetched s = .ok (.ldDtVx x)) ∧
    (t.st.toNat > s.st.toNat → ∃ x, fetched s = .ok (.ldStVx x)) ∧
    (mode = .perStep → t.fault = .none → (∀ x, fetched s ≠ .ok (.ldDtVx x)) → t.dt.toNat = s.dt.toNat - 1) ∧
    (mode = .perStep → t.fault = .none → (∀ x, fetched s ≠ .ok (.ldStVx x)) → t.st.toNat = s.st.toNat - 1)

/-- R96: a step that is not a CXNN is a function of the state alone. Two states that differ only in which random byte comes
next (the model's own count of draws, log 2) make the same step. -/
def Obligations.OnlyRndReadsTheRandomInput : Prop :=
  ∀ mode s n, (∀ x nn, fetched s ≠ .ok (.rnd x nn)) →
    (∀ t, stepIn mode s = .next t → t.draws = s.draws ∧ stepIn mode { s with draws := n } = .next { t with draws := n }) ∧
    (∀ r, stepIn mode s = .fault r → stepIn mode { s with draws := n } = .fault r)

/-- The end of a run (R193, decision D27): a finished machine stays finished, and only the timers and the outputs move. -/
def Obligations.FinishedMachineOnlyCountsDown : Prop :=
  ∀ s, Finished s → ∃ t, stepIn .perStep s = .next t ∧ Finished t ∧ SameRegs s t ∧ SameMemory s t ∧ t.i = s.i ∧
    t.pc = s.pc ∧ t.stack = s.stack ∧ t.key = s.key ∧ t.fb = s.fb ∧ t.draws = s.draws ∧ t.frameDirty = false ∧
    t.dt.toNat = s.dt.toNat - 1 ∧ t.st.toNat = s.st.toNat - 1 ∧ (t.beep = true ↔ s.st.toNat = 1)

/-! ### Reset and the host's operations -/

/-- The state after `init()` (R200, R41; font bytes per decision D1, log 4; fault and outputs per D15, D16, D24). -/
def Obligations.ResetLeavesTheBootState : Prop :=
  (∀ a, readMem State.reset a = if h : a < 80 then Config.font[a] else 0) ∧ (∀ r, readV State.reset r = 0) ∧
  State.reset.i = 0 ∧ State.reset.pc = 0x200 ∧ State.reset.stack = [] ∧ State.reset.dt = 0 ∧ State.reset.st = 0 ∧
  (∀ k : Fin 16, State.reset.key[k] = false) ∧ (∀ x y, cell State.reset.fb x y = false) ∧
  State.reset.fault = .none ∧ State.reset.frameDirty = false ∧ State.reset.beep = false

/-- R201: the entry point is 0x200, and the first step after reset and load fetches `mem[0x200] ++ mem[0x201]`. -/
def Obligations.EntryPointIs0x200 : Prop :=
  ∀ bytes s, (launch bytes s).pc = 0x200 ∧
    fetchBytes (launch bytes s) = [readMem (launch bytes s) 0x200, readMem (launch bytes s) 0x201]

/-- `load(bytes)` (R203, decision D19 for when it may happen): byte `k` goes to `0x200 + k` for the first 3584 bytes, every
other byte and all other state are as before. -/
def Obligations.LoadCopiesTheProgram : Prop :=
  ∀ bytes s, s.mem.wf = true →
    (∀ k (h : k < bytes.length), k < 3584 → readMem (load bytes s) (0x200 + k) = bytes[k]) ∧
    (∀ a, (∀ k, k < bytes.length → k < 3584 → a ≠ 0x200 + k) → readMem (load bytes s) a = readMem s a) ∧
    load bytes s = { s with mem := (load bytes s).mem }

/-- `init()` with any font (R200, decision D24): it may be applied to any state, faulted included; it installs the font at 0,
clears the fault, and with the default font leaves the reset state. The count of draws is the model's own (log 3). -/
def Obligations.InitInstallsAnyFontAndClearsTheFault : Prop :=
  ∀ (font : Vector Byte 80) s,
    (∀ a, readMem (initWith font s) a = if h : a < 80 then font[a] else 0) ∧
    (initWith font s).fault = .none ∧ initWith font s = { State.reset with mem := (initWith font s).mem, draws := s.draws } ∧
    initWith Config.font s = init s ∧ init s = { State.reset with draws := s.draws }

/-- Key events (R187, decision D18): each sets one key bit, twice is as once, and nothing else changes. -/
def Obligations.KeyEventsSetOneKey : Prop :=
  ∀ (k : Fin 16) s,
    (∀ j : Fin 16, (keyDown k s).key[j] = if j = k then true else s.key[j]) ∧
    (∀ j : Fin 16, (keyUp k s).key[j] = if j = k then false else s.key[j]) ∧
    keyDown k (keyDown k s) = keyDown k s ∧ keyUp k (keyUp k s) = keyUp k s ∧
    keyDown k s = { s with key := (keyDown k s).key } ∧ keyUp k s = { s with key := (keyUp k s).key }

/-! ### Control flow -/

/-- R101, 00EE: only the word 0x00EE is a return (decision D3, log 12); an empty stack takes StackUnderflow with nothing
changed (decision D6, log 15). -/
def Obligations.RetPopsIntoThePc : Prop :=
  (∀ w, decode w = .ok .ret ↔ w = 0x00EE) ∧
  (∀ s, s.stack = [] → exec .ret s = .next (faulted .stackUnderflow s)) ∧
  (∀ s w rest, s.stack = w :: rest → ∃ t, exec .ret s = .next t ∧ t.pc = w ∧ t.stack = rest ∧ sp t = sp s - 1 ∧
    SameRegs s t ∧ SameMemory s t ∧ t.i = s.i ∧ SameTimers s t ∧ SameDisplay s t ∧ SameInputs s t ∧ t.draws = s.draws)

/-- R102, 1NNN. -/
def Obligations.JumpAssignsNNN : Prop :=
  ∀ nnn s, decode (wordA 0x1 nnn) = .ok (.jp nnn) ∧
    ∃ t, exec (.jp nnn) s = .next t ∧ t.pc.toNat = nnn.toNat ∧ SameBesidesPc s t

/-- R103, 2NNN (the pushed value is decision D2, log 14; that a StackOverflow leaves all else as it was is R176, decision D6,
log 15). -/
def Obligations.CallPushesTheReturnAddress : Prop :=
  ∀ nnn s, decode (wordA 0x2 nnn) = .ok (.call nnn) ∧
    (sp s = 16 → exec (.call nnn) s = .next (faulted .stackOverflow s)) ∧
    (sp s ≠ 16 → ∃ t, exec (.call nnn) s = .next t ∧ t.pc.toNat = nnn.toNat ∧ t.stack = (s.pc + 2) :: s.stack ∧
      sp t = sp s + 1 ∧ stackEntry t (sp s) = some (s.pc + 2) ∧ (∀ k, k < sp s → stackEntry t k = stackEntry s k) ∧
      SameRegs s t ∧ SameMemory s t ∧ t.i = s.i ∧ SameTimers s t ∧ SameDisplay s t ∧ SameInputs s t ∧ t.draws = s.draws)

/-- R104, BNNN (that the sum is not reduced is decision D20). -/
def Obligations.IndexedJumpAddsV0 : Prop :=
  ∀ nnn s, decode (wordA 0xB nnn) = .ok (.jpV0 nnn) ∧
    ∃ t, exec (.jpV0 nnn) s = .next t ∧ t.pc.toNat = (readV s 0).toNat + nnn.toNat ∧ SameBesidesPc s t

/-- R105: call then return. A RET executed in any state whose stack is what the call left resumes after the call, at the
call's depth. -/
def Obligations.CallThenReturnResumesAfterTheCall : Prop :=
  ∀ nnn s t u, sp s < 16 → exec (.call nnn) s = .next t → u.stack = t.stack →
    ∃ r, exec .ret u = .next r ∧ r.pc = s.pc + 2 ∧ sp r = sp s ∧ r.stack = s.stack

/-! ### Skips -/

/-- R111 and R112, 3XNN and 4XNN. -/
def Obligations.SkipOnImmediate : Prop :=
  ∀ x nn s, decode (wordXI 0x3 x nn) = .ok (.seImm x nn) ∧ decode (wordXI 0x4 x nn) = .ok (.sneImm x nn) ∧
    (∃ t, exec (.seImm x nn) s = .next t ∧ t.pc = (if readV s x = nn then s.pc + 4 else s.pc + 2) ∧ SameBesidesPc s t) ∧
    (∃ t, exec (.sneImm x nn) s = .next t ∧ t.pc = (if readV s x ≠ nn then s.pc + 4 else s.pc + 2) ∧ SameBesidesPc s t)

/-- R113 and R114, 5XY0 and 9XY0; a low nibble other than 0 is illegal (decision D3, log 12). -/
def Obligations.SkipOnRegister : Prop :=
  ∀ x y s, decode (wordXY 0x5 x y 0) = .ok (.seReg x y) ∧ decode (wordXY 0x9 x y 0) = .ok (.sneReg x y) ∧
    (∀ k, k ≠ 0 → (∃ e, decode (wordXY 0x5 x y k) = .error e) ∧ ∃ e, decode (wordXY 0x9 x y k) = .error e) ∧
    (∃ t, exec (.seReg x y) s = .next t ∧ t.pc = (if readV s x = readV s y then s.pc + 4 else s.pc + 2) ∧ SameBesidesPc s t) ∧
    (∃ t, exec (.sneReg x y) s = .next t ∧ t.pc = (if readV s x ≠ readV s y then s.pc + 4 else s.pc + 2) ∧ SameBesidesPc s t)

/-- R115 and R116, EX9E and EXA1: the key is indexed by the low nibble of VX. -/
def Obligations.SkipOnKey : Prop :=
  ∀ x s (k : Fin 16), k.val = (readV s x).toNat % 16 →
    decode (wordXI 0xE x 0x9E) = .ok (.skp x) ∧ decode (wordXI 0xE x 0xA1) = .ok (.sknp x) ∧
    (∃ t, exec (.skp x) s = .next t ∧ t.pc = (if s.key[k] = true then s.pc + 4 else s.pc + 2) ∧ SameBesidesPc s t) ∧
    (∃ t, exec (.sknp x) s = .next t ∧ t.pc = (if s.key[k] = false then s.pc + 4 else s.pc + 2) ∧ SameBesidesPc s t)

/-! ### Register load, arithmetic, logic, random -/

/-- R121, 6XNN. -/
def Obligations.LoadImmediate : Prop :=
  ∀ x nn s, decode (wordXI 0x6 x nn) = .ok (.ldImm x nn) ∧
    ∃ t, exec (.ldImm x nn) s = .next t ∧ readV t x = nn ∧ SameRegsBut x s t ∧ t.pc = s.pc + 2 ∧ SameBesidesRegs s t ∧
      t.draws = s.draws

/-- R122, 7XNN: modulo 256, and VF is not written unless it is VX. -/
def Obligations.AddImmediateSetsNoFlag : Prop :=
  ∀ x nn s, decode (wordXI 0x7 x nn) = .ok (.addImm x nn) ∧
    ∃ t, exec (.addImm x nn) s = .next t ∧ (readV t x).toNat = ((readV s x).toNat + nn.toNat) % 256 ∧ SameRegsBut x s t ∧
      t.pc = s.pc + 2 ∧ SameBesidesRegs s t ∧ t.draws = s.draws

/-- R123, 8XY0. -/
def Obligations.MoveRegister : Prop :=
  ∀ x y s, decode (wordXY 0x8 x y 0x0) = .ok (.ldReg x y) ∧
    ∃ t, exec (.ldReg x y) s = .next t ∧ readV t x = readV s y ∧ SameRegsBut x s t ∧ t.pc = s.pc + 2 ∧
      SameBesidesRegs s t ∧ t.draws = s.draws

/-- R124, R125, R126, 8XY1, 8XY2, 8XY3: bit by bit, and VF is not written unless it is VX. -/
def Obligations.LogicActsBitByBit : Prop :=
  ∀ x y s, decode (wordXY 0x8 x y 0x1) = .ok (.orReg x y) ∧ decode (wordXY 0x8 x y 0x2) = .ok (.andReg x y) ∧
    decode (wordXY 0x8 x y 0x3) = .ok (.xorReg x y) ∧
    (∃ t, exec (.orReg x y) s = .next t ∧
      (∀ b < 8, (readV t x).getLsbD b = ((readV s x).getLsbD b || (readV s y).getLsbD b)) ∧ SameRegsBut x s t ∧
      t.pc = s.pc + 2 ∧ SameBesidesRegs s t ∧ t.draws = s.draws) ∧
    (∃ t, exec (.andReg x y) s = .next t ∧
      (∀ b < 8, (readV t x).getLsbD b = ((readV s x).getLsbD b && (readV s y).getLsbD b)) ∧ SameRegsBut x s t ∧
      t.pc = s.pc + 2 ∧ SameBesidesRegs s t ∧ t.draws = s.draws) ∧
    (∃ t, exec (.xorReg x y) s = .next t ∧
      (∀ b < 8, (readV t x).getLsbD b = ((readV s x).getLsbD b ^^ (readV s y).getLsbD b)) ∧ SameRegsBut x s t ∧
      t.pc = s.pc + 2 ∧ SameBesidesRegs s t ∧ t.draws = s.draws)

/-- R128, 8XY4: the sum modulo 256 in VX unless X is 15, and the carry in VF always (that the flag survives when X is 15 is
decision D12, log 13). -/
def Obligations.AddSetsTheCarry : Prop :=
  ∀ x y s, decode (wordXY 0x8 x y 0x4) = .ok (.addReg x y) ∧
    ∃ t, exec (.addReg x y) s = .next t ∧
      (x ≠ 15 → (readV t x).toNat = ((readV s x).toNat + (readV s y).toNat) % 256) ∧
      readV t 15 = (if (readV s x).toNat + (readV s y).toNat > 255 then 1 else 0) ∧
      (∀ r, r ≠ x → r ≠ 15 → readV t r = readV s r) ∧ t.pc = s.pc + 2 ∧ SameBesidesRegs s t ∧ t.draws = s.draws

/-- R129, 8XY5: the difference modulo 256 in VX unless X is 15, and not-borrow in VF always (that the flag survives when X
is 15 is decision D12, log 13). -/
def Obligations.SubSetsNotBorrow : Prop :=
  ∀ x y s, decode (wordXY 0x8 x y 0x5) = .ok (.subReg x y) ∧
    ∃ t, exec (.subReg x y) s = .next t ∧
      (x ≠ 15 → (readV t x).toNat = ((readV s x).toNat + 256 - (readV s y).toNat) % 256) ∧
      readV t 15 = (if (readV s y).toNat > (readV s x).toNat then 0 else 1) ∧
      (∀ r, r ≠ x → r ≠ 15 → readV t r = readV s r) ∧ t.pc = s.pc + 2 ∧ SameBesidesRegs s t ∧ t.draws = s.draws

/-- R130, R131, R132, R142, R161: the five named unimplemented opcodes decode, take UnsupportedOpcode, and change no
register, no byte, no timer and not the pc (what a fault leaves is decision D6, log 15). -/
def Obligations.UnimplementedOpcodesFault : Prop :=
  (∀ x y s, decode (wordXY 0x8 x y 0x6) = .ok (.shr x y) ∧ decode (wordXY 0x8 x y 0x7) = .ok (.subn x y) ∧
    decode (wordXY 0x8 x y 0xE) = .ok (.shl x y) ∧
    exec (.shr x y) s = .next (faulted .unsupportedOpcode s) ∧ exec (.subn x y) s = .next (faulted .unsupportedOpcode s) ∧
    exec (.shl x y) s = .next (faulted .unsupportedOpcode s)) ∧
  (∀ x s, decode (wordXI 0xF x 0x0A) = .ok (.ldVxK x) ∧ decode (wordXI 0xF x 0x1E) = .ok (.addIVx x) ∧
    exec (.ldVxK x) s = .next (faulted .unsupportedOpcode s) ∧ exec (.addIVx x) s = .next (faulted .unsupportedOpcode s)) ∧
  (∀ mode s i, s.fault = .none → s.pc.toNat ≤ 4094 → fetched s = .ok i → unimplemented i = true →
    ∃ t, stepIn mode s = .next t ∧ t.fault = .unsupportedOpcode ∧ SameRegs s t ∧ t.i = s.i ∧ t.pc = s.pc ∧ SameTimers s t)

/-- R134, CXNN, for the free byte drawn (decision D14; its form is log 2): VX receives it masked by NN, so its 1 bits are a
subset of NN's; and the count of draws advances by one, so that a later CXNN takes a fresh byte (R38, log 2, log 3). -/
def Obligations.RandomByteIsMasked : Prop :=
  ∀ x nn s, decode (wordXI 0xC x nn) = .ok (.rnd x nn) ∧
    ∃ t, exec (.rnd x nn) s = .next t ∧ readV t x = (Config.rnd s.draws &&& nn) ∧ readV t x &&& ~~~nn = 0 ∧
      (nn = 0 → readV t x = 0) ∧ t.draws = s.draws + 1 ∧ SameRegsBut x s t ∧ t.pc = s.pc + 2 ∧ SameBesidesRegs s t

/-! ### Index register and memory -/

/-- R140, ANNN. -/
def Obligations.LoadIndex : Prop :=
  ∀ nnn s, decode (wordA 0xA nnn) = .ok (.ldI nnn) ∧
    ∃ t, exec (.ldI nnn) s = .next t ∧ t.i.toNat = nnn.toNat ∧ t.pc = s.pc + 2 ∧ SameRegs s t ∧ SameMemory s t ∧
      t.stack = s.stack ∧ SameTimers s t ∧ SameDisplay s t ∧ SameInputs s t ∧ t.draws = s.draws

/-- R143, FX29: five times the low nibble of VX. -/
def Obligations.LoadGlyphAddress : Prop :=
  ∀ x s, decode (wordXI 0xF x 0x29) = .ok (.ldFVx x) ∧
    ∃ t, exec (.ldFVx x) s = .next t ∧ t.i.toNat = 5 * ((readV s x).toNat % 16) ∧ t.pc = s.pc + 2 ∧ SameRegs s t ∧
      SameMemory s t ∧ t.stack = s.stack ∧ SameTimers s t ∧ SameDisplay s t ∧ SameInputs s t ∧ t.draws = s.draws

/-- R144, FX33: the three decimal digits at I, I + 1, I + 2, or OutOfBoundsMemoryAccess with no byte stored and nothing
else changed (decisions D6 and D10, log 15). The premise on memory is part of the invariant StepKeepsTheInvariant states. -/
def Obligations.StoreDecimalDigits : Prop :=
  ∀ x s, s.mem.wf = true → decode (wordXI 0xF x 0x33) = .ok (.ldBVx x) ∧
    (s.i.toNat + 2 > 4095 → exec (.ldBVx x) s = .next (faulted .outOfBoundsMemoryAccess s)) ∧
    (s.i.toNat + 2 ≤ 4095 → ∃ t, exec (.ldBVx x) s = .next t ∧
      (readMem t s.i.toNat).toNat = (readV s x).toNat / 100 ∧
      (readMem t (s.i.toNat + 1)).toNat = (readV s x).toNat / 10 % 10 ∧
      (readMem t (s.i.toNat + 2)).toNat = (readV s x).toNat % 10 ∧
      (∀ a, a < baseAddress s ∨ baseAddress s + 2 < a → readMem t a = readMem s a) ∧
      t.pc = s.pc + 2 ∧ SameRegs s t ∧ t.i = s.i ∧ t.stack = s.stack ∧ SameTimers s t ∧ SameDisplay s t ∧ SameInputs s t ∧
      t.draws = s.draws)

/-- R146, FX55: V0 to VX at I and up, VX inclusive, or OutOfBoundsMemoryAccess with no byte stored and nothing else
changed (decisions D6 and D10, log 15). The premise on memory is part of the invariant StepKeepsTheInvariant states. -/
def Obligations.StoreRegisters : Prop :=
  ∀ x s, s.mem.wf = true → decode (wordXI 0xF x 0x55) = .ok (.stRegs x) ∧
    (s.i.toNat + x.val > 4095 → exec (.stRegs x) s = .next (faulted .outOfBoundsMemoryAccess s)) ∧
    (s.i.toNat + x.val ≤ 4095 → ∃ t, exec (.stRegs x) s = .next t ∧
      (∀ k : Reg, k ≤ x → readMem t (s.i.toNat + k.val) = readV s k) ∧
      (∀ a, a < baseAddress s ∨ baseAddress s + x.val < a → readMem t a = readMem s a) ∧
      t.pc = s.pc + 2 ∧ SameRegs s t ∧ t.i = s.i ∧ t.stack = s.stack ∧ SameTimers s t ∧ SameDisplay s t ∧ SameInputs s t ∧
      t.draws = s.draws)

/-- R147, FX65: V0 to VX from I and up, VX inclusive, or OutOfBoundsMemoryAccess with no register changed
(decisions D6 and D10, log 15). -/
def Obligations.LoadRegisters : Prop :=
  ∀ x s, decode (wordXI 0xF x 0x65) = .ok (.ldRegs x) ∧
    (s.i.toNat + x.val > 4095 → exec (.ldRegs x) s = .next (faulted .outOfBoundsMemoryAccess s)) ∧
    (s.i.toNat + x.val ≤ 4095 → ∃ t, exec (.ldRegs x) s = .next t ∧
      (∀ r : Reg, r ≤ x → readV t r = readMem s (s.i.toNat + r.val)) ∧ (∀ r : Reg, x < r → readV t r = readV s r) ∧
      t.pc = s.pc + 2 ∧ SameBesidesRegs s t ∧ t.draws = s.draws)

/-- R65, R61: a store is seen by the very next fetch. After a step that completed an FX55 or an FX33, the two bytes at
`pc + 2`, the next fetch's, are what the store left there, whether it covered both, one or neither. The premise on memory is
part of the invariant StepKeepsTheInvariant states; with `pc` above 4092 the next fetch faults (R91). -/
def Obligations.StoreIsSeenByTheNextFetch : Prop :=
  ∀ (mode : TimerMode) (x : Reg) (s t : State), s.mem.wf = true → s.pc.toNat ≤ 4092 → stepIn mode s = .next t →
    t.fault = .none →
    (fetched s = .ok (.stRegs x) →
      fetchBytes t = [byteAfterRegs x s (s.pc.toNat + 2), byteAfterRegs x s (s.pc.toNat + 3)]) ∧
    (fetched s = .ok (.ldBVx x) →
      fetchBytes t = [byteAfterDigits x s (s.pc.toNat + 2), byteAfterDigits x s (s.pc.toNat + 3)])

/-! ### Display -/

/-- R150, 00E0: every cell is 0, VF is not touched; that `frame_dirty` is not raised is decision D15 (log 22), and that only
the word 0x00E0 clears is decision D3 (log 12). -/
def Obligations.ClearScreen : Prop :=
  (∀ w, decode w = .ok .cls ↔ w = 0x00E0) ∧
  ∀ s, ∃ t, exec .cls s = .next t ∧ (∀ x y, cell t.fb x y = false) ∧ t.pc = s.pc + 2 ∧ SameRegs s t ∧ SameMemory s t ∧
    t.i = s.i ∧ t.stack = s.stack ∧ SameTimers s t ∧ SameInputs s t ∧ t.frameDirty = s.frameDirty ∧ t.beep = s.beep ∧
    t.draws = s.draws

/-- R152, DXYN completed: every cell under a 1 bit of the sprite is inverted and no other, VF tells whether one of them was 1
(the operand binding is R151's general knowledge, D8, log 10; the off-screen test is decision D9, log 11; `frame_dirty` is
decision D15, log 22). -/
def Obligations.DrawXorsTheSprite : Prop :=
  ∀ x y n s, decode (wordXY 0xD x y (nibble n)) = .ok (.drw x y n) ∧
    (SpriteInMemory s n → SpriteOnScreen s x y n → ∃ t, exec (.drw x y n) s = .next t ∧
      (∀ col row, col < 64 → row < 32 →
        (SpriteOver s x y n col row → cell t.fb col row = !cell s.fb col row) ∧
        (¬ SpriteOver s x y n col row → cell t.fb col row = cell s.fb col row)) ∧
      ((∃ col row, SpriteOver s x y n col row ∧ cell s.fb col row = true) → readV t vf = 1) ∧
      ((¬ ∃ col row, SpriteOver s x y n col row ∧ cell s.fb col row = true) → readV t vf = 0) ∧
      SameRegsBut vf s t ∧ t.frameDirty = true ∧ t.pc = s.pc + 2 ∧ SameMemory s t ∧ t.i = s.i ∧ t.stack = s.stack ∧
      SameTimers s t ∧ t.beep = s.beep ∧ SameInputs s t ∧ t.draws = s.draws)

/-- R153 (what the fault leaves is decision D6, log 15): a DXYN whose source or some target cell is out of bounds takes OutOfBoundsMemoryAccess and draws nothing (which
cells are tested is decision D9, log 11; the operand binding is D8, log 10). -/
def Obligations.DrawOutOfBoundsFaults : Prop :=
  ∀ x y n s, ¬ (SpriteInMemory s n ∧ SpriteOnScreen s x y n) →
    exec (.drw x y n) s = .next (faulted .outOfBoundsMemoryAccess s)

/-- R154: drawing the same sprite at the same place twice restores the framebuffer, and the second VF is 1 exactly when some
touched cell was 0 before the first draw (the operand binding is D8, log 10). -/
def Obligations.DrawTwiceRestoresTheScreen : Prop :=
  ∀ x y n s t u, s.fault = .none → exec (.drw x y n) s = .next t → t.fault = .none → u.fb = t.fb → u.i = s.i →
    readV u x = readV s x → readV u y = readV s y → SameMemory s u →
    ∃ r, exec (.drw x y n) u = .next r ∧ r.fb = s.fb ∧
      ((∃ col row, SpriteOver s x y n col row ∧ cell s.fb col row = false) → readV r vf = 1) ∧
      ((¬ ∃ col row, SpriteOver s x y n col row ∧ cell s.fb col row = false) → readV r vf = 0)

/-! ### Timers -/

/-- R160, FX07: the value before this step's tick. -/
def Obligations.ReadDelayTimer : Prop :=
  ∀ x s, decode (wordXI 0xF x 0x07) = .ok (.ldVxDt x) ∧
    ∃ t, exec (.ldVxDt x) s = .next t ∧ readV t x = s.dt ∧ SameRegsBut x s t ∧ t.pc = s.pc + 2 ∧ SameBesidesRegs s t ∧
      t.draws = s.draws ∧ readV (tick t) x = s.dt ∧ (tick t).dt.toNat = s.dt.toNat - 1

/-- R162, FX15: DT receives VX, and this step's tick lowers it and does not beep on its account. -/
def Obligations.SetDelayTimer : Prop :=
  ∀ x s, decode (wordXI 0xF x 0x15) = .ok (.ldDtVx x) ∧
    ∃ t, exec (.ldDtVx x) s = .next t ∧ t.dt = readV s x ∧ (tick t).dt.toNat = (readV s x).toNat - 1 ∧
      (s.st ≠ 1 → (tick t).beep = s.beep) ∧ t.pc = s.pc + 2 ∧
      SameRegs s t ∧ SameMemory s t ∧ t.i = s.i ∧ t.stack = s.stack ∧ t.st = s.st ∧ SameDisplay s t ∧ SameInputs s t ∧
      t.draws = s.draws

/-- R163, FX18: ST receives VX, and this step's tick lowers it and beeps when VX was 1. -/
def Obligations.SetSoundTimer : Prop :=
  ∀ x s, decode (wordXI 0xF x 0x18) = .ok (.ldStVx x) ∧
    ∃ t, exec (.ldStVx x) s = .next t ∧ t.st = readV s x ∧ (tick t).st.toNat = (readV s x).toNat - 1 ∧
      (s.beep = false → ((tick t).beep = true ↔ (readV s x).toNat = 1)) ∧ t.pc = s.pc + 2 ∧
      SameRegs s t ∧ SameMemory s t ∧ t.i = s.i ∧ t.stack = s.stack ∧ t.dt = s.dt ∧ SameDisplay s t ∧ SameInputs s t ∧
      t.draws = s.draws
end

