-- ==== Sys2Proof/Laws/State.lean ====
section
/-! SUPPORT. One lemma per field per named update of the state, true by rfl, so that no proof unfolds a record update. -/

namespace Sys2Proof.Machine

/-! ### `writeMem` -/

@[simp] theorem writeMem_mem (a : Nat) (bs : List Byte) (s : State) : (writeMem a bs s).mem = storeBytes s.mem a bs := rfl
@[simp] theorem writeMem_v (a : Nat) (bs : List Byte) (s : State) : (writeMem a bs s).v = s.v := rfl
@[simp] theorem writeMem_i (a : Nat) (bs : List Byte) (s : State) : (writeMem a bs s).i = s.i := rfl
@[simp] theorem writeMem_pc (a : Nat) (bs : List Byte) (s : State) : (writeMem a bs s).pc = s.pc := rfl
@[simp] theorem writeMem_stack (a : Nat) (bs : List Byte) (s : State) : (writeMem a bs s).stack = s.stack := rfl
@[simp] theorem writeMem_dt (a : Nat) (bs : List Byte) (s : State) : (writeMem a bs s).dt = s.dt := rfl
@[simp] theorem writeMem_st (a : Nat) (bs : List Byte) (s : State) : (writeMem a bs s).st = s.st := rfl
@[simp] theorem writeMem_key (a : Nat) (bs : List Byte) (s : State) : (writeMem a bs s).key = s.key := rfl
@[simp] theorem writeMem_fb (a : Nat) (bs : List Byte) (s : State) : (writeMem a bs s).fb = s.fb := rfl
@[simp] theorem writeMem_fault (a : Nat) (bs : List Byte) (s : State) : (writeMem a bs s).fault = s.fault := rfl
@[simp] theorem writeMem_frameDirty (a : Nat) (bs : List Byte) (s : State) : (writeMem a bs s).frameDirty = s.frameDirty := rfl
@[simp] theorem writeMem_beep (a : Nat) (bs : List Byte) (s : State) : (writeMem a bs s).beep = s.beep := rfl
@[simp] theorem writeMem_draws (a : Nat) (bs : List Byte) (s : State) : (writeMem a bs s).draws = s.draws := rfl

/-! ### `writeV` -/

@[simp] theorem writeV_mem (x : Reg) (b : Byte) (s : State) : (writeV x b s).mem = s.mem := rfl
@[simp] theorem writeV_v (x : Reg) (b : Byte) (s : State) : (writeV x b s).v = s.v.set x b := rfl
@[simp] theorem writeV_i (x : Reg) (b : Byte) (s : State) : (writeV x b s).i = s.i := rfl
@[simp] theorem writeV_pc (x : Reg) (b : Byte) (s : State) : (writeV x b s).pc = s.pc := rfl
@[simp] theorem writeV_stack (x : Reg) (b : Byte) (s : State) : (writeV x b s).stack = s.stack := rfl
@[simp] theorem writeV_dt (x : Reg) (b : Byte) (s : State) : (writeV x b s).dt = s.dt := rfl
@[simp] theorem writeV_st (x : Reg) (b : Byte) (s : State) : (writeV x b s).st = s.st := rfl
@[simp] theorem writeV_key (x : Reg) (b : Byte) (s : State) : (writeV x b s).key = s.key := rfl
@[simp] theorem writeV_fb (x : Reg) (b : Byte) (s : State) : (writeV x b s).fb = s.fb := rfl
@[simp] theorem writeV_fault (x : Reg) (b : Byte) (s : State) : (writeV x b s).fault = s.fault := rfl
@[simp] theorem writeV_frameDirty (x : Reg) (b : Byte) (s : State) : (writeV x b s).frameDirty = s.frameDirty := rfl
@[simp] theorem writeV_beep (x : Reg) (b : Byte) (s : State) : (writeV x b s).beep = s.beep := rfl
@[simp] theorem writeV_draws (x : Reg) (b : Byte) (s : State) : (writeV x b s).draws = s.draws := rfl

/-! ### `writeVUpTo` -/

@[simp] theorem writeVUpTo_mem (x : Reg) (f : Nat → Byte) (s : State) : (writeVUpTo x f s).mem = s.mem := rfl
@[simp] theorem writeVUpTo_v (x : Reg) (f : Nat → Byte) (s : State) : (writeVUpTo x f s).v = Vector.ofFn fun r => if r.val ≤ x.val then f r.val else s.v[r] := rfl
@[simp] theorem writeVUpTo_i (x : Reg) (f : Nat → Byte) (s : State) : (writeVUpTo x f s).i = s.i := rfl
@[simp] theorem writeVUpTo_pc (x : Reg) (f : Nat → Byte) (s : State) : (writeVUpTo x f s).pc = s.pc := rfl
@[simp] theorem writeVUpTo_stack (x : Reg) (f : Nat → Byte) (s : State) : (writeVUpTo x f s).stack = s.stack := rfl
@[simp] theorem writeVUpTo_dt (x : Reg) (f : Nat → Byte) (s : State) : (writeVUpTo x f s).dt = s.dt := rfl
@[simp] theorem writeVUpTo_st (x : Reg) (f : Nat → Byte) (s : State) : (writeVUpTo x f s).st = s.st := rfl
@[simp] theorem writeVUpTo_key (x : Reg) (f : Nat → Byte) (s : State) : (writeVUpTo x f s).key = s.key := rfl
@[simp] theorem writeVUpTo_fb (x : Reg) (f : Nat → Byte) (s : State) : (writeVUpTo x f s).fb = s.fb := rfl
@[simp] theorem writeVUpTo_fault (x : Reg) (f : Nat → Byte) (s : State) : (writeVUpTo x f s).fault = s.fault := rfl
@[simp] theorem writeVUpTo_frameDirty (x : Reg) (f : Nat → Byte) (s : State) : (writeVUpTo x f s).frameDirty = s.frameDirty := rfl
@[simp] theorem writeVUpTo_beep (x : Reg) (f : Nat → Byte) (s : State) : (writeVUpTo x f s).beep = s.beep := rfl
@[simp] theorem writeVUpTo_draws (x : Reg) (f : Nat → Byte) (s : State) : (writeVUpTo x f s).draws = s.draws := rfl

/-! ### `setI` -/

@[simp] theorem setI_mem (w : Word) (s : State) : (setI w s).mem = s.mem := rfl
@[simp] theorem setI_v (w : Word) (s : State) : (setI w s).v = s.v := rfl
@[simp] theorem setI_i (w : Word) (s : State) : (setI w s).i = w := rfl
@[simp] theorem setI_pc (w : Word) (s : State) : (setI w s).pc = s.pc := rfl
@[simp] theorem setI_stack (w : Word) (s : State) : (setI w s).stack = s.stack := rfl
@[simp] theorem setI_dt (w : Word) (s : State) : (setI w s).dt = s.dt := rfl
@[simp] theorem setI_st (w : Word) (s : State) : (setI w s).st = s.st := rfl
@[simp] theorem setI_key (w : Word) (s : State) : (setI w s).key = s.key := rfl
@[simp] theorem setI_fb (w : Word) (s : State) : (setI w s).fb = s.fb := rfl
@[simp] theorem setI_fault (w : Word) (s : State) : (setI w s).fault = s.fault := rfl
@[simp] theorem setI_frameDirty (w : Word) (s : State) : (setI w s).frameDirty = s.frameDirty := rfl
@[simp] theorem setI_beep (w : Word) (s : State) : (setI w s).beep = s.beep := rfl
@[simp] theorem setI_draws (w : Word) (s : State) : (setI w s).draws = s.draws := rfl

/-! ### `setPc` -/

@[simp] theorem setPc_mem (w : Word) (s : State) : (setPc w s).mem = s.mem := rfl
@[simp] theorem setPc_v (w : Word) (s : State) : (setPc w s).v = s.v := rfl
@[simp] theorem setPc_i (w : Word) (s : State) : (setPc w s).i = s.i := rfl
@[simp] theorem setPc_pc (w : Word) (s : State) : (setPc w s).pc = w := rfl
@[simp] theorem setPc_stack (w : Word) (s : State) : (setPc w s).stack = s.stack := rfl
@[simp] theorem setPc_dt (w : Word) (s : State) : (setPc w s).dt = s.dt := rfl
@[simp] theorem setPc_st (w : Word) (s : State) : (setPc w s).st = s.st := rfl
@[simp] theorem setPc_key (w : Word) (s : State) : (setPc w s).key = s.key := rfl
@[simp] theorem setPc_fb (w : Word) (s : State) : (setPc w s).fb = s.fb := rfl
@[simp] theorem setPc_fault (w : Word) (s : State) : (setPc w s).fault = s.fault := rfl
@[simp] theorem setPc_frameDirty (w : Word) (s : State) : (setPc w s).frameDirty = s.frameDirty := rfl
@[simp] theorem setPc_beep (w : Word) (s : State) : (setPc w s).beep = s.beep := rfl
@[simp] theorem setPc_draws (w : Word) (s : State) : (setPc w s).draws = s.draws := rfl

/-! ### `advance` -/

@[simp] theorem advance_mem (s : State) : (advance s).mem = s.mem := rfl
@[simp] theorem advance_v (s : State) : (advance s).v = s.v := rfl
@[simp] theorem advance_i (s : State) : (advance s).i = s.i := rfl
@[simp] theorem advance_pc (s : State) : (advance s).pc = s.pc + 2 := rfl
@[simp] theorem advance_stack (s : State) : (advance s).stack = s.stack := rfl
@[simp] theorem advance_dt (s : State) : (advance s).dt = s.dt := rfl
@[simp] theorem advance_st (s : State) : (advance s).st = s.st := rfl
@[simp] theorem advance_key (s : State) : (advance s).key = s.key := rfl
@[simp] theorem advance_fb (s : State) : (advance s).fb = s.fb := rfl
@[simp] theorem advance_fault (s : State) : (advance s).fault = s.fault := rfl
@[simp] theorem advance_frameDirty (s : State) : (advance s).frameDirty = s.frameDirty := rfl
@[simp] theorem advance_beep (s : State) : (advance s).beep = s.beep := rfl
@[simp] theorem advance_draws (s : State) : (advance s).draws = s.draws := rfl

/-! ### `skipIf` -/

@[simp] theorem skipIf_mem (c : Bool) (s : State) : (skipIf c s).mem = s.mem := rfl
@[simp] theorem skipIf_v (c : Bool) (s : State) : (skipIf c s).v = s.v := rfl
@[simp] theorem skipIf_i (c : Bool) (s : State) : (skipIf c s).i = s.i := rfl
@[simp] theorem skipIf_pc (c : Bool) (s : State) : (skipIf c s).pc = if c then s.pc + 4 else s.pc + 2 := rfl
@[simp] theorem skipIf_stack (c : Bool) (s : State) : (skipIf c s).stack = s.stack := rfl
@[simp] theorem skipIf_dt (c : Bool) (s : State) : (skipIf c s).dt = s.dt := rfl
@[simp] theorem skipIf_st (c : Bool) (s : State) : (skipIf c s).st = s.st := rfl
@[simp] theorem skipIf_key (c : Bool) (s : State) : (skipIf c s).key = s.key := rfl
@[simp] theorem skipIf_fb (c : Bool) (s : State) : (skipIf c s).fb = s.fb := rfl
@[simp] theorem skipIf_fault (c : Bool) (s : State) : (skipIf c s).fault = s.fault := rfl
@[simp] theorem skipIf_frameDirty (c : Bool) (s : State) : (skipIf c s).frameDirty = s.frameDirty := rfl
@[simp] theorem skipIf_beep (c : Bool) (s : State) : (skipIf c s).beep = s.beep := rfl
@[simp] theorem skipIf_draws (c : Bool) (s : State) : (skipIf c s).draws = s.draws := rfl

/-! ### `setFb` -/

@[simp] theorem setFb_mem (g : Framebuffer) (s : State) : (setFb g s).mem = s.mem := rfl
@[simp] theorem setFb_v (g : Framebuffer) (s : State) : (setFb g s).v = s.v := rfl
@[simp] theorem setFb_i (g : Framebuffer) (s : State) : (setFb g s).i = s.i := rfl
@[simp] theorem setFb_pc (g : Framebuffer) (s : State) : (setFb g s).pc = s.pc := rfl
@[simp] theorem setFb_stack (g : Framebuffer) (s : State) : (setFb g s).stack = s.stack := rfl
@[simp] theorem setFb_dt (g : Framebuffer) (s : State) : (setFb g s).dt = s.dt := rfl
@[simp] theorem setFb_st (g : Framebuffer) (s : State) : (setFb g s).st = s.st := rfl
@[simp] theorem setFb_key (g : Framebuffer) (s : State) : (setFb g s).key = s.key := rfl
@[simp] theorem setFb_fb (g : Framebuffer) (s : State) : (setFb g s).fb = g := rfl
@[simp] theorem setFb_fault (g : Framebuffer) (s : State) : (setFb g s).fault = s.fault := rfl
@[simp] theorem setFb_frameDirty (g : Framebuffer) (s : State) : (setFb g s).frameDirty = s.frameDirty := rfl
@[simp] theorem setFb_beep (g : Framebuffer) (s : State) : (setFb g s).beep = s.beep := rfl
@[simp] theorem setFb_draws (g : Framebuffer) (s : State) : (setFb g s).draws = s.draws := rfl

/-! ### `markDirty` -/

@[simp] theorem markDirty_mem (s : State) : (markDirty s).mem = s.mem := rfl
@[simp] theorem markDirty_v (s : State) : (markDirty s).v = s.v := rfl
@[simp] theorem markDirty_i (s : State) : (markDirty s).i = s.i := rfl
@[simp] theorem markDirty_pc (s : State) : (markDirty s).pc = s.pc := rfl
@[simp] theorem markDirty_stack (s : State) : (markDirty s).stack = s.stack := rfl
@[simp] theorem markDirty_dt (s : State) : (markDirty s).dt = s.dt := rfl
@[simp] theorem markDirty_st (s : State) : (markDirty s).st = s.st := rfl
@[simp] theorem markDirty_key (s : State) : (markDirty s).key = s.key := rfl
@[simp] theorem markDirty_fb (s : State) : (markDirty s).fb = s.fb := rfl
@[simp] theorem markDirty_fault (s : State) : (markDirty s).fault = s.fault := rfl
@[simp] theorem markDirty_frameDirty (s : State) : (markDirty s).frameDirty = true := rfl
@[simp] theorem markDirty_beep (s : State) : (markDirty s).beep = s.beep := rfl
@[simp] theorem markDirty_draws (s : State) : (markDirty s).draws = s.draws := rfl

/-! ### `setDt` -/

@[simp] theorem setDt_mem (b : Byte) (s : State) : (setDt b s).mem = s.mem := rfl
@[simp] theorem setDt_v (b : Byte) (s : State) : (setDt b s).v = s.v := rfl
@[simp] theorem setDt_i (b : Byte) (s : State) : (setDt b s).i = s.i := rfl
@[simp] theorem setDt_pc (b : Byte) (s : State) : (setDt b s).pc = s.pc := rfl
@[simp] theorem setDt_stack (b : Byte) (s : State) : (setDt b s).stack = s.stack := rfl
@[simp] theorem setDt_dt (b : Byte) (s : State) : (setDt b s).dt = b := rfl
@[simp] theorem setDt_st (b : Byte) (s : State) : (setDt b s).st = s.st := rfl
@[simp] theorem setDt_key (b : Byte) (s : State) : (setDt b s).key = s.key := rfl
@[simp] theorem setDt_fb (b : Byte) (s : State) : (setDt b s).fb = s.fb := rfl
@[simp] theorem setDt_fault (b : Byte) (s : State) : (setDt b s).fault = s.fault := rfl
@[simp] theorem setDt_frameDirty (b : Byte) (s : State) : (setDt b s).frameDirty = s.frameDirty := rfl
@[simp] theorem setDt_beep (b : Byte) (s : State) : (setDt b s).beep = s.beep := rfl
@[simp] theorem setDt_draws (b : Byte) (s : State) : (setDt b s).draws = s.draws := rfl

/-! ### `setSt` -/

@[simp] theorem setSt_mem (b : Byte) (s : State) : (setSt b s).mem = s.mem := rfl
@[simp] theorem setSt_v (b : Byte) (s : State) : (setSt b s).v = s.v := rfl
@[simp] theorem setSt_i (b : Byte) (s : State) : (setSt b s).i = s.i := rfl
@[simp] theorem setSt_pc (b : Byte) (s : State) : (setSt b s).pc = s.pc := rfl
@[simp] theorem setSt_stack (b : Byte) (s : State) : (setSt b s).stack = s.stack := rfl
@[simp] theorem setSt_dt (b : Byte) (s : State) : (setSt b s).dt = s.dt := rfl
@[simp] theorem setSt_st (b : Byte) (s : State) : (setSt b s).st = b := rfl
@[simp] theorem setSt_key (b : Byte) (s : State) : (setSt b s).key = s.key := rfl
@[simp] theorem setSt_fb (b : Byte) (s : State) : (setSt b s).fb = s.fb := rfl
@[simp] theorem setSt_fault (b : Byte) (s : State) : (setSt b s).fault = s.fault := rfl
@[simp] theorem setSt_frameDirty (b : Byte) (s : State) : (setSt b s).frameDirty = s.frameDirty := rfl
@[simp] theorem setSt_beep (b : Byte) (s : State) : (setSt b s).beep = s.beep := rfl
@[simp] theorem setSt_draws (b : Byte) (s : State) : (setSt b s).draws = s.draws := rfl

/-! ### `tick` -/

@[simp] theorem tick_mem (s : State) : (tick s).mem = s.mem := rfl
@[simp] theorem tick_v (s : State) : (tick s).v = s.v := rfl
@[simp] theorem tick_i (s : State) : (tick s).i = s.i := rfl
@[simp] theorem tick_pc (s : State) : (tick s).pc = s.pc := rfl
@[simp] theorem tick_stack (s : State) : (tick s).stack = s.stack := rfl
@[simp] theorem tick_dt (s : State) : (tick s).dt = decTimer s.dt := rfl
@[simp] theorem tick_st (s : State) : (tick s).st = decTimer s.st := rfl
@[simp] theorem tick_key (s : State) : (tick s).key = s.key := rfl
@[simp] theorem tick_fb (s : State) : (tick s).fb = s.fb := rfl
@[simp] theorem tick_fault (s : State) : (tick s).fault = s.fault := rfl
@[simp] theorem tick_frameDirty (s : State) : (tick s).frameDirty = s.frameDirty := rfl
@[simp] theorem tick_beep (s : State) : (tick s).beep = if s.st = 1 then true else s.beep := rfl
@[simp] theorem tick_draws (s : State) : (tick s).draws = s.draws := rfl

/-! ### `countDraw` -/

@[simp] theorem countDraw_mem (s : State) : (countDraw s).mem = s.mem := rfl
@[simp] theorem countDraw_v (s : State) : (countDraw s).v = s.v := rfl
@[simp] theorem countDraw_i (s : State) : (countDraw s).i = s.i := rfl
@[simp] theorem countDraw_pc (s : State) : (countDraw s).pc = s.pc := rfl
@[simp] theorem countDraw_stack (s : State) : (countDraw s).stack = s.stack := rfl
@[simp] theorem countDraw_dt (s : State) : (countDraw s).dt = s.dt := rfl
@[simp] theorem countDraw_st (s : State) : (countDraw s).st = s.st := rfl
@[simp] theorem countDraw_key (s : State) : (countDraw s).key = s.key := rfl
@[simp] theorem countDraw_fb (s : State) : (countDraw s).fb = s.fb := rfl
@[simp] theorem countDraw_fault (s : State) : (countDraw s).fault = s.fault := rfl
@[simp] theorem countDraw_frameDirty (s : State) : (countDraw s).frameDirty = s.frameDirty := rfl
@[simp] theorem countDraw_beep (s : State) : (countDraw s).beep = s.beep := rfl
@[simp] theorem countDraw_draws (s : State) : (countDraw s).draws = s.draws + 1 := rfl

/-! ### `clearOutputs` -/

@[simp] theorem clearOutputs_mem (s : State) : (clearOutputs s).mem = s.mem := rfl
@[simp] theorem clearOutputs_v (s : State) : (clearOutputs s).v = s.v := rfl
@[simp] theorem clearOutputs_i (s : State) : (clearOutputs s).i = s.i := rfl
@[simp] theorem clearOutputs_pc (s : State) : (clearOutputs s).pc = s.pc := rfl
@[simp] theorem clearOutputs_stack (s : State) : (clearOutputs s).stack = s.stack := rfl
@[simp] theorem clearOutputs_dt (s : State) : (clearOutputs s).dt = s.dt := rfl
@[simp] theorem clearOutputs_st (s : State) : (clearOutputs s).st = s.st := rfl
@[simp] theorem clearOutputs_key (s : State) : (clearOutputs s).key = s.key := rfl
@[simp] theorem clearOutputs_fb (s : State) : (clearOutputs s).fb = s.fb := rfl
@[simp] theorem clearOutputs_fault (s : State) : (clearOutputs s).fault = s.fault := rfl
@[simp] theorem clearOutputs_frameDirty (s : State) : (clearOutputs s).frameDirty = false := rfl
@[simp] theorem clearOutputs_beep (s : State) : (clearOutputs s).beep = false := rfl
@[simp] theorem clearOutputs_draws (s : State) : (clearOutputs s).draws = s.draws := rfl

/-! ### `writeFlag` -/

@[simp] theorem writeFlag_mem (c : Bool) (s : State) : (writeFlag c s).mem = s.mem := rfl
@[simp] theorem writeFlag_v (c : Bool) (s : State) : (writeFlag c s).v = s.v.set vf (flagByte c) := rfl
@[simp] theorem writeFlag_i (c : Bool) (s : State) : (writeFlag c s).i = s.i := rfl
@[simp] theorem writeFlag_pc (c : Bool) (s : State) : (writeFlag c s).pc = s.pc := rfl
@[simp] theorem writeFlag_stack (c : Bool) (s : State) : (writeFlag c s).stack = s.stack := rfl
@[simp] theorem writeFlag_dt (c : Bool) (s : State) : (writeFlag c s).dt = s.dt := rfl
@[simp] theorem writeFlag_st (c : Bool) (s : State) : (writeFlag c s).st = s.st := rfl
@[simp] theorem writeFlag_key (c : Bool) (s : State) : (writeFlag c s).key = s.key := rfl
@[simp] theorem writeFlag_fb (c : Bool) (s : State) : (writeFlag c s).fb = s.fb := rfl
@[simp] theorem writeFlag_fault (c : Bool) (s : State) : (writeFlag c s).fault = s.fault := rfl
@[simp] theorem writeFlag_frameDirty (c : Bool) (s : State) : (writeFlag c s).frameDirty = s.frameDirty := rfl
@[simp] theorem writeFlag_beep (c : Bool) (s : State) : (writeFlag c s).beep = s.beep := rfl
@[simp] theorem writeFlag_draws (c : Bool) (s : State) : (writeFlag c s).draws = s.draws := rfl

/-! ### `setKey` -/

@[simp] theorem setKey_mem (k : Fin 16) (b : Bool) (s : State) : (setKey k b s).mem = s.mem := rfl
@[simp] theorem setKey_v (k : Fin 16) (b : Bool) (s : State) : (setKey k b s).v = s.v := rfl
@[simp] theorem setKey_i (k : Fin 16) (b : Bool) (s : State) : (setKey k b s).i = s.i := rfl
@[simp] theorem setKey_pc (k : Fin 16) (b : Bool) (s : State) : (setKey k b s).pc = s.pc := rfl
@[simp] theorem setKey_stack (k : Fin 16) (b : Bool) (s : State) : (setKey k b s).stack = s.stack := rfl
@[simp] theorem setKey_dt (k : Fin 16) (b : Bool) (s : State) : (setKey k b s).dt = s.dt := rfl
@[simp] theorem setKey_st (k : Fin 16) (b : Bool) (s : State) : (setKey k b s).st = s.st := rfl
@[simp] theorem setKey_key (k : Fin 16) (b : Bool) (s : State) : (setKey k b s).key = s.key.set k b := rfl
@[simp] theorem setKey_fb (k : Fin 16) (b : Bool) (s : State) : (setKey k b s).fb = s.fb := rfl
@[simp] theorem setKey_fault (k : Fin 16) (b : Bool) (s : State) : (setKey k b s).fault = s.fault := rfl
@[simp] theorem setKey_frameDirty (k : Fin 16) (b : Bool) (s : State) : (setKey k b s).frameDirty = s.frameDirty := rfl
@[simp] theorem setKey_beep (k : Fin 16) (b : Bool) (s : State) : (setKey k b s).beep = s.beep := rfl
@[simp] theorem setKey_draws (k : Fin 16) (b : Bool) (s : State) : (setKey k b s).draws = s.draws := rfl

/-! ### `faulted` -/

@[simp] theorem faulted_mem (f : FaultCode) (s : State) : (faulted f s).mem = s.mem := rfl
@[simp] theorem faulted_v (f : FaultCode) (s : State) : (faulted f s).v = s.v := rfl
@[simp] theorem faulted_i (f : FaultCode) (s : State) : (faulted f s).i = s.i := rfl
@[simp] theorem faulted_pc (f : FaultCode) (s : State) : (faulted f s).pc = s.pc := rfl
@[simp] theorem faulted_stack (f : FaultCode) (s : State) : (faulted f s).stack = s.stack := rfl
@[simp] theorem faulted_dt (f : FaultCode) (s : State) : (faulted f s).dt = s.dt := rfl
@[simp] theorem faulted_st (f : FaultCode) (s : State) : (faulted f s).st = s.st := rfl
@[simp] theorem faulted_key (f : FaultCode) (s : State) : (faulted f s).key = s.key := rfl
@[simp] theorem faulted_fb (f : FaultCode) (s : State) : (faulted f s).fb = s.fb := rfl
@[simp] theorem faulted_fault (f : FaultCode) (s : State) : (faulted f s).fault = f := rfl
@[simp] theorem faulted_frameDirty (f : FaultCode) (s : State) : (faulted f s).frameDirty = false := rfl
@[simp] theorem faulted_beep (f : FaultCode) (s : State) : (faulted f s).beep = false := rfl
@[simp] theorem faulted_draws (f : FaultCode) (s : State) : (faulted f s).draws = s.draws := rfl

end Sys2Proof.Machine
end

