-- ==== Sys2Proof/Laws/Memory.lean ====
section
/-! SUPPORT. Memory: a read after a write, blocks of bytes, and that every memory operation keeps the canonical form. -/

namespace Sys2Proof.Machine

theorem memWfFrom_mono {lo lo' : Nat} (h : lo' ≤ lo) {m : Memory} (hm : memWfFrom lo m = true) : memWfFrom lo' m = true := by
  cases m with
  | nil => rfl
  | cons e m => simp only [memWfFrom, Bool.and_eq_true, decide_eq_true_eq] at hm ⊢; exact ⟨⟨⟨by omega, hm.1.1.2⟩, hm.1.2⟩, hm.2⟩

/-- Below the first listed address everything reads as its reset contents. -/
theorem memRead_below {lo : Nat} {m : Memory} (hm : memWfFrom lo m = true) {a : Nat} (ha : a < lo) :
    memRead m a = resetByte a := by
  induction m generalizing lo with
  | nil => rfl
  | cons e m ih =>
    simp only [memWfFrom, Bool.and_eq_true, decide_eq_true_eq] at hm
    rw [memRead, if_neg (by omega)]
    exact ih hm.2 (by omega)

theorem memRead_memCons {a : Nat} {b : Byte} {m : Memory} (hm : memWfFrom (a + 1) m = true) (a' : Nat) :
    memRead (memCons a b m) a' = if a' = a then b else memRead m a' := by
  unfold memCons
  by_cases h : a' = a
  · subst h
    split
    · next hb => rw [memRead_below hm (by omega), if_pos rfl, hb]
    · simp [memRead]
  · split
    · rfl
    · simp [memRead, Ne.symm h]

theorem memWfFrom_memCons {lo a : Nat} {b : Byte} {m : Memory} (hlo : lo ≤ a) (ha : a < Config.memSize)
    (hm : memWfFrom (a + 1) m = true) : memWfFrom lo (memCons a b m) = true := by
  unfold memCons
  split
  · exact memWfFrom_mono (by omega) hm
  · next hb => simp [memWfFrom, hlo, ha, hb, hm]

/-- A read after a write: the written address gives the value written, every other what it gave before (R59). -/
theorem memRead_memWrite {lo : Nat} {m : Memory} (hm : memWfFrom lo m = true) (a : Nat) (b : Byte) (a' : Nat) :
    memRead (memWrite m a b) a' = if a' = a then b else memRead m a' := by
  induction m generalizing lo with
  | nil => rw [memWrite, memRead_memCons rfl]
  | cons e m ih =>
    have hm' := hm
    simp only [memWfFrom, Bool.and_eq_true, decide_eq_true_eq] at hm
    rw [memWrite]
    split
    · next h => rw [memRead_memCons (by simp [memWfFrom, hm, h])]
    · split
      · next h => subst h; rw [memRead_memCons hm.2]; simp only [memRead, eq_comm (a := a')]; split <;> rfl
      · next h1 h2 =>
        simp only [memRead]; rw [ih hm.2]
        by_cases h3 : e.1 = a'
        · subst h3; simp [Ne.symm h2]
        · simp [h3]

theorem memWfFrom_memWrite {lo : Nat} {m : Memory} (hm : memWfFrom lo m = true) {a : Nat} (hlo : lo ≤ a)
    (ha : a < Config.memSize) (b : Byte) : memWfFrom lo (memWrite m a b) = true := by
  induction m generalizing lo with
  | nil => exact memWfFrom_memCons hlo ha rfl
  | cons e m ih =>
    simp only [memWfFrom, Bool.and_eq_true, decide_eq_true_eq] at hm
    rw [memWrite]
    split
    · next h => exact memWfFrom_memCons hlo ha (by simp [memWfFrom, hm, h])
    · split
      · next h => subst h; exact memWfFrom_memCons hlo ha hm.2
      · next h1 h2 => simp [memWfFrom, hm, ih hm.2 (by omega)]

/-- Every write inside memory keeps the canonical form. -/
theorem memWrite_wf {m : Memory} (hm : m.wf = true) {a : Nat} (ha : a < Config.memSize) (b : Byte) :
    (memWrite m a b).wf = true := memWfFrom_memWrite hm (Nat.zero_le a) ha b

/-- Every block store inside memory keeps the canonical form. -/
theorem storeBytes_wf {m : Memory} (hm : m.wf = true) (bs : List Byte) {a : Nat} (ha : a + bs.length ≤ Config.memSize) :
    (storeBytes m a bs).wf = true := by
  induction bs generalizing m a with
  | nil => exact hm
  | cons b bs ih =>
    simp only [List.length_cons] at ha
    exact ih (memWrite_wf hm (by omega) b) (by omega)

/-- A read after a block store: byte `k` of the block at `a + k`, every other address as before (R53, R59). -/
theorem memRead_storeBytes {m : Memory} (hm : m.wf = true) (bs : List Byte) {a : Nat}
    (ha : a + bs.length ≤ Config.memSize) (a' : Nat) :
    memRead (storeBytes m a bs) a' = if h : a ≤ a' ∧ a' < a + bs.length then bs[a' - a]'(by omega) else memRead m a' := by
  induction bs generalizing m a with
  | nil => rw [dif_neg (by simp)]; rfl
  | cons b bs ih =>
    simp only [List.length_cons] at ha ⊢
    rw [storeBytes, ih (memWrite_wf hm (by omega) b) (by omega), memRead_memWrite hm]
    by_cases h : a' = a
    · subst h; simp
    · by_cases h1 : a + 1 ≤ a' ∧ a' < a + 1 + bs.length
      · rw [dif_pos h1, dif_pos (by omega)]
        have : a' - a = (a' - (a + 1)) + 1 := by omega
        simp [this]
      · rw [dif_neg h1, dif_neg (by omega), if_neg h]

@[simp] theorem loadBytes_length (m : Memory) (a n : Nat) : (loadBytes m a n).length = n := by
  induction n generalizing a with
  | zero => rfl
  | succ n ih => simp [loadBytes, ih]

/-- Byte `k` of a loaded block is the byte at `a + k` (R53). -/
theorem loadBytes_getElem (m : Memory) (a n k : Nat) (h : k < (loadBytes m a n).length) :
    (loadBytes m a n)[k] = memRead m (a + k) := by
  induction n generalizing a k with
  | zero => simp at h
  | succ n ih =>
    cases k with
    | zero => rfl
    | succ k => simp only [loadBytes, List.getElem_cons_succ]; rw [ih]; congr 1; omega

theorem extentOk_iff (a n : Nat) : extentOk a n = true ↔ n = 0 ∨ a + n ≤ 4096 := by
  rw [extentOk, Bool.or_eq_true, decide_eq_true_eq, decide_eq_true_eq]
  rfl

/-- Memory after reset is canonical. -/
theorem reset_mem_wf : State.reset.mem.wf = true := rfl

end Sys2Proof.Machine
end

