-- ==== Sys2Proof/Laws/Ops.lean ====
section
/-! SUPPORT. What each shared operation over registers, stack, faults and the step cycle can do, said once. -/

namespace Sys2Proof.Machine

/-! ### Registers -/

@[simp] theorem readV_writeV (x r : Reg) (b : Byte) (s : State) :
    readV (writeV x b s) r = if r = x then b else readV s r := by
  by_cases h : r = x
  · subst h; simp [readV]
  · have : x.val ≠ r.val := fun e => h (Fin.ext e.symm)
    simp [readV, h, this]

@[simp] theorem readV_writeFlag (c : Bool) (r : Reg) (s : State) :
    readV (writeFlag c s) r = if r = vf then flagByte c else readV s r := readV_writeV vf r (flagByte c) s

@[simp] theorem readV_writeVUpTo (x r : Reg) (f : Nat → Byte) (s : State) :
    readV (writeVUpTo x f s) r = if r.val ≤ x.val then f r.val else readV s r := by
  simp [readV]

/-- Reading a register looks at the register file only. -/
theorem readV_congr {s t : State} (h : t.v = s.v) (r : Reg) : readV t r = readV s r := by simp [readV, h]

/-- Reading a byte looks at memory only. -/
theorem readMem_congr {s t : State} (h : t.mem = s.mem) (a : Nat) : readMem t a = readMem s a := by simp [readMem, h]

/-! ### Registers and memory under the updates that touch neither -/

@[simp] theorem readV_setI (w : Word) (s : State) (r : Reg) : readV (setI w s) r = readV s r := rfl
@[simp] theorem readV_setPc (w : Word) (s : State) (r : Reg) : readV (setPc w s) r = readV s r := rfl
@[simp] theorem readV_advance (s : State) (r : Reg) : readV (advance s) r = readV s r := rfl
@[simp] theorem readV_skipIf (c : Bool) (s : State) (r : Reg) : readV (skipIf c s) r = readV s r := rfl
@[simp] theorem readV_setFb (g : Framebuffer) (s : State) (r : Reg) : readV (setFb g s) r = readV s r := rfl
@[simp] theorem readV_markDirty (s : State) (r : Reg) : readV (markDirty s) r = readV s r := rfl
@[simp] theorem readV_setDt (b : Byte) (s : State) (r : Reg) : readV (setDt b s) r = readV s r := rfl
@[simp] theorem readV_setSt (b : Byte) (s : State) (r : Reg) : readV (setSt b s) r = readV s r := rfl
@[simp] theorem readV_tick (s : State) (r : Reg) : readV (tick s) r = readV s r := rfl
@[simp] theorem readV_countDraw (s : State) (r : Reg) : readV (countDraw s) r = readV s r := rfl
@[simp] theorem readV_clearOutputs (s : State) (r : Reg) : readV (clearOutputs s) r = readV s r := rfl
@[simp] theorem readV_setKey (k : Fin 16) (b : Bool) (s : State) (r : Reg) : readV (setKey k b s) r = readV s r := rfl
@[simp] theorem readV_faulted (f : FaultCode) (s : State) (r : Reg) : readV (faulted f s) r = readV s r := rfl
@[simp] theorem readV_writeMem (a : Nat) (bs : List Byte) (s : State) (r : Reg) : readV (writeMem a bs s) r = readV s r := rfl

@[simp] theorem readMem_setI (w : Word) (s : State) (a : Nat) : readMem (setI w s) a = readMem s a := rfl
@[simp] theorem readMem_setPc (w : Word) (s : State) (a : Nat) : readMem (setPc w s) a = readMem s a := rfl
@[simp] theorem readMem_advance (s : State) (a : Nat) : readMem (advance s) a = readMem s a := rfl
@[simp] theorem readMem_skipIf (c : Bool) (s : State) (a : Nat) : readMem (skipIf c s) a = readMem s a := rfl
@[simp] theorem readMem_setFb (g : Framebuffer) (s : State) (a : Nat) : readMem (setFb g s) a = readMem s a := rfl
@[simp] theorem readMem_markDirty (s : State) (a : Nat) : readMem (markDirty s) a = readMem s a := rfl
@[simp] theorem readMem_setDt (b : Byte) (s : State) (a : Nat) : readMem (setDt b s) a = readMem s a := rfl
@[simp] theorem readMem_setSt (b : Byte) (s : State) (a : Nat) : readMem (setSt b s) a = readMem s a := rfl
@[simp] theorem readMem_tick (s : State) (a : Nat) : readMem (tick s) a = readMem s a := rfl
@[simp] theorem readMem_countDraw (s : State) (a : Nat) : readMem (countDraw s) a = readMem s a := rfl
@[simp] theorem readMem_clearOutputs (s : State) (a : Nat) : readMem (clearOutputs s) a = readMem s a := rfl
@[simp] theorem readMem_setKey (k : Fin 16) (b : Bool) (s : State) (a : Nat) : readMem (setKey k b s) a = readMem s a := rfl
@[simp] theorem readMem_faulted (f : FaultCode) (s : State) (a : Nat) : readMem (faulted f s) a = readMem s a := rfl
@[simp] theorem readMem_writeV (x : Reg) (b : Byte) (s : State) (a : Nat) : readMem (writeV x b s) a = readMem s a := rfl
@[simp] theorem readMem_writeFlag (c : Bool) (s : State) (a : Nat) : readMem (writeFlag c s) a = readMem s a := rfl
@[simp] theorem readMem_writeVUpTo (x : Reg) (f : Nat → Byte) (s : State) (a : Nat) : readMem (writeVUpTo x f s) a = readMem s a := rfl

/-! ### Faults, stack -/

/-- Taking a fault always answers a next state, the one `faulted` names (R176). -/
theorem raise_eq (f : FaultCode) (s : State) : raise f s = .next (faulted f s) := rfl

/-- `Push` at depth 16 (R30). -/
theorem push_full {s : State} (h : sp s = 16) (w : Word) : push w s = .error .stackOverflow := by
  simp [push, h, Config.stackDepth]

/-- `Push` below depth 16 (R30). -/
theorem push_ok {s : State} (h : sp s ≠ 16) (w : Word) : push w s = .ok { s with stack := w :: s.stack } := by
  simp [push, h, Config.stackDepth]

/-- `Pop` on an empty stack (R31). -/
theorem pop_empty {s : State} (h : s.stack = []) : pop s = .error .stackUnderflow := by simp [pop, h]

/-- `Pop` with a live entry (R31). -/
theorem pop_ok {s : State} {w : Word} {rest : List Word} (h : s.stack = w :: rest) :
    pop s = .ok (w, { s with stack := rest }) := by simp [pop, h]

/-- An I-based access either goes on or takes OutOfBoundsMemoryAccess (R141). -/
theorem withExtent_cases (n : Nat) (s : State) (go : Result) :
    (extentOk (baseAddress s) n = true ∧ withExtent n s go = go) ∨
      (extentOk (baseAddress s) n = false ∧ withExtent n s go = .next (faulted .outOfBoundsMemoryAccess s)) := by
  unfold withExtent
  cases extentOk (baseAddress s) n <;> simp [raise_eq]

/-! ### Timers, cycle -/

theorem decTimer_toNat (b : Byte) : (decTimer b).toNat = b.toNat - 1 := by
  unfold decTimer
  split
  · next h => simp [h]
  · next h =>
    have : b.toNat ≠ 0 := fun e => h (BitVec.eq_of_toNat_eq (by simpa using e))
    rw [BitVec.toNat_sub]; simp; have := b.isLt; omega

/-- The tick phase moves only the timers and the beep (R94, R99). -/
theorem afterExecute_cases (mode : TimerMode) (u : State) : afterExecute mode u = u ∨
    (mode = .perStep ∧ u.fault = .none ∧ afterExecute mode u = tick u) := by
  unfold afterExecute
  by_cases h : u.fault = .none
  · cases mode <;> simp [h]
  · simp [h]

@[simp] theorem afterExecute_mem (mode : TimerMode) (u : State) : (afterExecute mode u).mem = u.mem := by
  rcases afterExecute_cases mode u with h | ⟨_, _, h⟩ <;> simp [h, tick]
@[simp] theorem afterExecute_v (mode : TimerMode) (u : State) : (afterExecute mode u).v = u.v := by
  rcases afterExecute_cases mode u with h | ⟨_, _, h⟩ <;> simp [h, tick]
@[simp] theorem afterExecute_i (mode : TimerMode) (u : State) : (afterExecute mode u).i = u.i := by
  rcases afterExecute_cases mode u with h | ⟨_, _, h⟩ <;> simp [h, tick]
@[simp] theorem afterExecute_pc (mode : TimerMode) (u : State) : (afterExecute mode u).pc = u.pc := by
  rcases afterExecute_cases mode u with h | ⟨_, _, h⟩ <;> simp [h, tick]
@[simp] theorem afterExecute_stack (mode : TimerMode) (u : State) : (afterExecute mode u).stack = u.stack := by
  rcases afterExecute_cases mode u with h | ⟨_, _, h⟩ <;> simp [h, tick]
@[simp] theorem afterExecute_key (mode : TimerMode) (u : State) : (afterExecute mode u).key = u.key := by
  rcases afterExecute_cases mode u with h | ⟨_, _, h⟩ <;> simp [h, tick]
@[simp] theorem afterExecute_fb (mode : TimerMode) (u : State) : (afterExecute mode u).fb = u.fb := by
  rcases afterExecute_cases mode u with h | ⟨_, _, h⟩ <;> simp [h, tick]
@[simp] theorem afterExecute_fault (mode : TimerMode) (u : State) : (afterExecute mode u).fault = u.fault := by
  rcases afterExecute_cases mode u with h | ⟨_, _, h⟩ <;> simp [h, tick]
@[simp] theorem afterExecute_frameDirty (mode : TimerMode) (u : State) : (afterExecute mode u).frameDirty = u.frameDirty := by
  rcases afterExecute_cases mode u with h | ⟨_, _, h⟩ <;> simp [h, tick]
@[simp] theorem afterExecute_draws (mode : TimerMode) (u : State) : (afterExecute mode u).draws = u.draws := by
  rcases afterExecute_cases mode u with h | ⟨_, _, h⟩ <;> simp [h, tick]

/-- What a step does on a machine that has not faulted, phase by phase (R90): it takes a fetch fault, an illegal-word
fault, or runs the decoded instruction. -/
theorem stepIn_cases {mode : TimerMode} {s : State} (h : s.fault = .none) :
    (fetchOk s = false ∧ stepIn mode s = .next (faulted .outOfBoundsMemoryAccess s)) ∨
      (fetchOk s = true ∧ (∃ e, decodeBytes (fetchBytes s) = .error e) ∧
        stepIn mode s = .next (faulted .unsupportedOpcode s)) ∨
      (∃ i, fetchOk s = true ∧ decodeBytes (fetchBytes s) = .ok i ∧ stepIn mode s = runInstr mode i (clearOutputs s)) := by
  have h1 : fetchOk (clearOutputs s) = fetchOk s := rfl
  have h2 : fetchBytes (clearOutputs s) = fetchBytes s := rfl
  have h3 : ∀ f, raise f (clearOutputs s) = .next (faulted f s) := fun _ => rfl
  simp only [stepIn, h, if_true, runStep, h1, h2, h3]
  cases hf : fetchOk s
  · simp
  · cases hd : decodeBytes (fetchBytes s) with
    | error e => simp
    | ok i => simp

/-- A faulted machine has no step (R98). -/
theorem stepIn_faulted {mode : TimerMode} {s : State} (h : s.fault ≠ .none) :
    stepIn mode s = .fault (.terminated s.fault) := by simp [stepIn, h]

end Sys2Proof.Machine
end

