-- ==== Sys2Proof/Laws/Display.lean ====
section
/-! SUPPORT. The framebuffer: a cell after a flip, what compositing a list of cells does, and which cells a sprite targets (R152). -/

namespace Sys2Proof.Machine

/-- The cell after a flip: the flipped cell on the screen is inverted, every other is as before (R152, R156). -/
theorem cell_flipCell (fb : Framebuffer) (x y x' y' : Nat) :
    cell (flipCell fb x y) x' y' = if x' = x ∧ y' = y ∧ x < 64 ∧ y < 32 then !cell fb x y else cell fb x' y' := by
  unfold flipCell
  by_cases h : y < 32 ∧ x < 64
  · rw [dif_pos h]
    unfold cell
    by_cases h' : y' < 32 ∧ x' < 64
    · rw [dif_pos h', dif_pos h, dif_pos h']
      by_cases hy : y = y'
      · subst hy
        by_cases hx : x = x'
        · subst hx; simp [h]
        · simp [hx, Ne.symm hx]
      · simp [hy, Ne.symm hy]
    · rw [dif_neg h', if_neg (by omega)]; rw [dif_neg h']
  · rw [dif_neg h, if_neg (by omega)]

/-- Two framebuffers with the same cells are equal. -/
theorem fb_ext {f g : Framebuffer} (h : ∀ x y, x < 64 → y < 32 → cell f x y = cell g x y) : f = g := by
  apply Vector.ext; intro y hy
  apply Vector.ext; intro x hx
  have := h x y hx hy
  simpa [cell, hx, hy] using this

/-- A cleared framebuffer has no lit cell (R150). -/
@[simp] theorem cell_clearedFb (x y : Nat) : cell clearedFb x y = false := by
  unfold cell clearedFb; split <;> simp

/-- The cells off a list of targets are as before; a cell on it is inverted once, when no target is repeated (R152). -/
theorem cell_composite (fb : Framebuffer) (ts : List (Nat × Nat)) (hn : ts.Nodup) (hs : onScreen ts = true) (x y : Nat) :
    cell (composite fb ts).1 x y = (cell fb x y ^^ decide ((x, y) ∈ ts)) := by
  induction ts generalizing fb with
  | nil => simp [composite]
  | cons p ps ih =>
    simp only [onScreen, List.all_cons, Bool.and_eq_true, decide_eq_true_eq] at hs
    rw [List.nodup_cons] at hn
    simp only [composite]
    rw [ih _ hn.2 hs.2, cell_flipCell]
    by_cases h : (x, y) = p
    · subst h; simp [hs.1, hn.1]
    · have h' : ¬ (x = p.1 ∧ y = p.2) := fun e => h (Prod.ext e.1 e.2)
      rw [if_neg (by tauto)]; simp [h]

/-- The collision flag is true when some target was lit before, when no target is repeated (R152). -/
theorem composite_collision (fb : Framebuffer) (ts : List (Nat × Nat)) (hn : ts.Nodup) :
    (composite fb ts).2 = true ↔ ∃ p ∈ ts, cell fb p.1 p.2 = true := by
  induction ts generalizing fb with
  | nil => simp [composite]
  | cons p ps ih =>
    rw [List.nodup_cons] at hn
    simp only [composite, Bool.or_eq_true, ih _ hn.2, List.exists_mem_cons_iff]
    apply or_congr_right
    constructor
    all_goals
      rintro ⟨q, hq, hc⟩
      refine ⟨q, hq, ?_⟩
      have hne : ¬ (q.1 = p.1 ∧ q.2 = p.2) := fun e => hn.1 ((Prod.ext e.1 e.2 : q = p) ▸ hq)
      rw [cell_flipCell, if_neg (by tauto)] at *
      exact hc

/-- The targets of one sprite row: one per 1 bit, bit 7 leftmost (R151). -/
theorem mem_rowTargets (x0 y : Nat) (row : Byte) (p : Nat × Nat) :
    p ∈ rowTargets x0 y row ↔ ∃ c, c < 8 ∧ row.getLsbD (7 - c) = true ∧ p = (x0 + c, y) := by
  simp only [rowTargets, List.mem_map, List.mem_filter, List.mem_range, and_assoc, eq_comm (a := p)]

/-- The targets of a sprite: one per 1 bit of each row, row `r` of the sprite on row `y0 + r` of the screen (R152). -/
theorem mem_spriteTargets (x0 y0 : Nat) (rows : List Byte) (p : Nat × Nat) :
    p ∈ spriteTargets x0 y0 rows ↔
      ∃ r c, ∃ h : r < rows.length, c < 8 ∧ rows[r].getLsbD (7 - c) = true ∧ p = (x0 + c, y0 + r) := by
  induction rows generalizing y0 with
  | nil => simp [spriteTargets]
  | cons row rows ih =>
    rw [spriteTargets, List.mem_append, mem_rowTargets, ih]
    constructor
    · rintro (⟨c, hc, hb, rfl⟩ | ⟨r, c, hr, hc, hb, rfl⟩)
      · exact ⟨0, c, by simp, hc, hb, rfl⟩
      · exact ⟨r + 1, c, by simpa using hr, hc, hb, by simp; omega⟩
    · rintro ⟨r, c, hr, hc, hb, rfl⟩
      cases r with
      | zero => exact .inl ⟨c, hc, hb, rfl⟩
      | succ r => exact .inr ⟨r, c, by simpa using hr, hc, hb, by simp; omega⟩

/-- No cell is targeted twice: nothing wraps (R154). -/
theorem spriteTargets_nodup (x0 y0 : Nat) (rows : List Byte) : (spriteTargets x0 y0 rows).Nodup := by
  induction rows generalizing y0 with
  | nil => simp [spriteTargets]
  | cons row rows ih =>
    rw [spriteTargets, List.nodup_append]
    refine ⟨?_, ih _, ?_⟩
    · refine List.Nodup.map (fun a b h => ?_) (List.Nodup.filter _ List.nodup_range)
      have := (Prod.ext_iff.mp h).1; simp at this; exact this
    · intro p hp q hq he
      subst he
      rw [mem_rowTargets] at hp; rw [mem_spriteTargets] at hq
      obtain ⟨c, _, _, rfl⟩ := hp
      obtain ⟨r, c', _, _, _, h⟩ := hq
      have := (Prod.ext_iff.mp h).2; simp at this; omega

end Sys2Proof.Machine
end

