-- ==== Sys2Proof/Laws/Encoding.lean ====
section
/-! SUPPORT. The fields of a word built by one of the formats of R72, and the two directions of the byte order (R53). -/

namespace Sys2Proof

@[simp] theorem nibble_toFin (r : Fin 16) : (nibble r).toFin = r := rfl

@[simp] theorem nibble_of_toFin (n : Nibble) : nibble n.toFin = n := rfl

/-! ### Format `A` -/

@[simp] theorem fieldF_wordA (f : Nibble) (nnn : Addr12) : fieldF (wordA f nnn) = f :=
  BitVec.extractLsb'_append_eq_left

@[simp] theorem fieldNNN_wordA (f : Nibble) (nnn : Addr12) : fieldNNN (wordA f nnn) = nnn :=
  BitVec.extractLsb'_append_eq_right

/-! ### Format `XI` (and `XK`) -/

@[simp] theorem fieldF_wordXI (f : Nibble) (x : Reg) (nn : Byte) : fieldF (wordXI f x nn) = f := by
  change BitVec.extractLsb' 12 4 (f ++ nibble x ++ nn : BitVec (4 + 4 + 8)) = f
  ext i hi
  rw [BitVec.getElem_extractLsb', BitVec.getLsbD_append, BitVec.getLsbD_append, if_neg (by omega), if_neg (by omega)]
  simp [show 12 + i - 8 - 4 = i by omega]; rfl

@[simp] theorem fieldX_wordXI (f : Nibble) (x : Reg) (nn : Byte) : fieldX (wordXI f x nn) = x := by
  have : BitVec.extractLsb' 8 4 (f ++ nibble x ++ nn : BitVec (4 + 4 + 8)) = nibble x := by
    ext i hi
    rw [BitVec.getElem_extractLsb', BitVec.getLsbD_append, BitVec.getLsbD_append, if_neg (by omega), if_pos (by omega)]
    simp; rfl
  exact congrArg BitVec.toFin this

@[simp] theorem fieldNN_wordXI (f : Nibble) (x : Reg) (nn : Byte) : fieldNN (wordXI f x nn) = nn :=
  BitVec.extractLsb'_append_eq_right

/-! ### Format `XY` (and `XYN`) -/

@[simp] theorem fieldF_wordXY (f : Nibble) (x y : Reg) (k : Nibble) : fieldF (wordXY f x y k) = f := by
  change BitVec.extractLsb' 12 4 (f ++ nibble x ++ nibble y ++ k : BitVec (4 + 4 + 4 + 4)) = f
  ext i hi
  rw [BitVec.getElem_extractLsb', BitVec.getLsbD_append, BitVec.getLsbD_append, BitVec.getLsbD_append,
    if_neg (by omega), if_neg (by omega), if_neg (by omega)]
  simp [show 12 + i - 4 - 4 - 4 = i by omega]; rfl

@[simp] theorem fieldX_wordXY (f : Nibble) (x y : Reg) (k : Nibble) : fieldX (wordXY f x y k) = x := by
  have : BitVec.extractLsb' 8 4 (f ++ nibble x ++ nibble y ++ k : BitVec (4 + 4 + 4 + 4)) = nibble x := by
    ext i hi
    rw [BitVec.getElem_extractLsb', BitVec.getLsbD_append, BitVec.getLsbD_append, BitVec.getLsbD_append,
      if_neg (by omega), if_neg (by omega), if_pos (by omega)]
    simp [show 8 + i - 4 - 4 = i by omega]; rfl
  exact congrArg BitVec.toFin this

@[simp] theorem fieldY_wordXY (f : Nibble) (x y : Reg) (k : Nibble) : fieldY (wordXY f x y k) = y := by
  have : BitVec.extractLsb' 4 4 (f ++ nibble x ++ nibble y ++ k : BitVec (4 + 4 + 4 + 4)) = nibble y := by
    ext i hi
    rw [BitVec.getElem_extractLsb', BitVec.getLsbD_append, BitVec.getLsbD_append, if_neg (by omega), if_pos (by omega)]
    simp; rfl
  exact congrArg BitVec.toFin this

@[simp] theorem fieldN_wordXY (f : Nibble) (x y : Reg) (k : Nibble) : fieldN (wordXY f x y k) = k :=
  BitVec.extractLsb'_append_eq_right

/-! ### A word is made of its fields, and what the masks of R76 keep of it -/

theorem getLsbD_wordA (f : Nibble) (nnn : Addr12) (i : Nat) :
    (wordA f nnn).getLsbD i = if i < 12 then nnn.getLsbD i else f.getLsbD (i - 12) := BitVec.getLsbD_append

theorem getLsbD_wordXI (f : Nibble) (x : Reg) (nn : Byte) (i : Nat) :
    (wordXI f x nn).getLsbD i =
      if i < 8 then nn.getLsbD i else if i - 8 < 4 then (nibble x).getLsbD (i - 8) else f.getLsbD (i - 8 - 4) := by
  change BitVec.getLsbD (f ++ nibble x ++ nn : BitVec (4 + 4 + 8)) i = _
  rw [BitVec.getLsbD_append, BitVec.getLsbD_append]

theorem getLsbD_wordXY (f : Nibble) (x y : Reg) (k : Nibble) (i : Nat) :
    (wordXY f x y k).getLsbD i =
      if i < 4 then k.getLsbD i else if i - 4 < 4 then (nibble y).getLsbD (i - 4)
        else if i - 4 - 4 < 4 then (nibble x).getLsbD (i - 4 - 4) else f.getLsbD (i - 4 - 4 - 4) := by
  change BitVec.getLsbD (f ++ nibble x ++ nibble y ++ k : BitVec (4 + 4 + 4 + 4)) i = _
  rw [BitVec.getLsbD_append, BitVec.getLsbD_append, BitVec.getLsbD_append]

theorem nibble_fieldX (w : Word) : nibble (fieldX w) = w.extractLsb' 8 4 := rfl

theorem nibble_fieldY (w : Word) : nibble (fieldY w) = w.extractLsb' 4 4 := rfl

theorem wordA_fields (w : Word) : wordA (fieldF w) (fieldNNN w) = w := by
  apply BitVec.eq_of_getLsbD_eq; intro i hi; rw [getLsbD_wordA]
  interval_cases i <;> simp [fieldF, fieldNNN]

theorem wordXI_fields (w : Word) : wordXI (fieldF w) (fieldX w) (fieldNN w) = w := by
  apply BitVec.eq_of_getLsbD_eq; intro i hi; rw [getLsbD_wordXI]
  interval_cases i <;> simp [fieldF, nibble_fieldX, fieldNN]

theorem wordXY_fields (w : Word) : wordXY (fieldF w) (fieldX w) (fieldY w) (fieldN w) = w := by
  apply BitVec.eq_of_getLsbD_eq; intro i hi; rw [getLsbD_wordXY]
  interval_cases i <;> simp [fieldF, nibble_fieldX, nibble_fieldY, fieldN]

/-- Mask 0xF000 keeps the family (R76). -/
theorem and_F000 (w : Word) : w &&& 0xF000#16 = wordA (fieldF w) 0 := by
  apply BitVec.eq_of_getLsbD_eq; intro i hi; rw [getLsbD_wordA]
  interval_cases i <;> simp [fieldF]

/-- Mask 0xF00F keeps the family and the low nibble (R76). -/
theorem and_F00F (w : Word) : w &&& 0xF00F#16 = wordXY (fieldF w) 0 0 (fieldN w) := by
  apply BitVec.eq_of_getLsbD_eq; intro i hi; rw [getLsbD_wordXY]
  interval_cases i <;> simp [fieldF, fieldN, nibble]

/-- Mask 0xF0FF keeps the family and the low byte (R76). -/
theorem and_F0FF (w : Word) : w &&& 0xF0FF#16 = wordXI (fieldF w) 0 (fieldNN w) := by
  apply BitVec.eq_of_getLsbD_eq; intro i hi; rw [getLsbD_wordXI]
  interval_cases i <;> simp [fieldF, fieldNN, nibble]

/-- Mask 0xFFFF keeps the whole word (R76). -/
theorem and_FFFF (w : Word) : w &&& 0xFFFF#16 = w := BitVec.and_allOnes

/-! ### Bytes -/

/-- The two bytes memory holds of a word form that word again (R53). -/
theorem wordOfBytes_bytesOfWord (w : Word) : wordOfBytes (w.extractLsb' 8 8) (w.extractLsb' 0 8) = w := by
  change (w.extractLsb' 8 8 ++ w.extractLsb' 0 8 : BitVec (8 + 8)) = w
  ext i hi
  rw [BitVec.getElem_append]
  split
  · next h => simp; rfl
  · next h => simp [show 8 + (i - 8) = i by omega]; rfl

/-- Decoding the bytes of a word is decoding the word. -/
theorem decodeBytes_bytesOfWord (w : Word) : decodeBytes (bytesOfWord w) = decode w := by
  simp only [bytesOfWord, decodeBytes, wordOfBytes_bytesOfWord]

/-- The decoder reads two bytes; fewer are refused by name (R70). -/
theorem decodeBytes_cons (b0 b1 : Byte) (bs : List Byte) : decodeBytes (b0 :: b1 :: bs) = decode (wordOfBytes b0 b1) := rfl

/-- The word two bytes form, as a number (R53). -/
theorem wordOfBytes_toNat (b0 b1 : Byte) : (wordOfBytes b0 b1).toNat = b0.toNat * 256 + b1.toNat := by
  have := b1.isLt
  rw [wordOfBytes, BitVec.toNat_append, ← Nat.shiftLeft_add_eq_or_of_lt this, Nat.shiftLeft_eq]

end Sys2Proof
end

