-- ==== Sys2Proof/Laws/Exec.lean ====
section
/-! SUPPORT. What each instruction with checks of its own can do, said once, and the inversion of a step: every instruction answers a next state, and a step is a fetch fault, an illegal-word fault, or one run instruction. -/

namespace Sys2Proof.Machine

/-- 00EE: a fault on an empty stack, else the top entry into the pc (R101). -/
theorem execRet_cases (s : State) :
    (s.stack = [] ∧ execRet s = .next (faulted .stackUnderflow s)) ∨
      (∃ w rest, s.stack = w :: rest ∧ execRet s = .next (setPc w { s with stack := rest })) := by
  cases h : s.stack with
  | nil => exact .inl ⟨rfl, by simp [execRet, pop_empty h, raise_eq]⟩
  | cons w rest => exact .inr ⟨w, rest, rfl, by simp [execRet, pop_ok h]⟩

/-- 2NNN: a fault at depth 16, else a push and a jump (R103). -/
theorem execCall_cases (nnn : Addr12) (s : State) :
    (sp s = 16 ∧ execCall nnn s = .next (faulted .stackOverflow s)) ∨
      (sp s ≠ 16 ∧ execCall nnn s = .next (setPc (addrWord nnn) { s with stack := (s.pc + 2) :: s.stack })) := by
  by_cases h : sp s = 16
  · exact .inl ⟨h, by simp [execCall, push_full h, raise_eq]⟩
  · exact .inr ⟨h, by simp [execCall, push_ok h]⟩

/-- FX33: a fault past the end of memory, else three digits stored (R144). -/
theorem execLdBVx_cases (x : Reg) (s : State) :
    (s.i.toNat + 2 ≤ 4095 ∧
        execLdBVx x s = .next (advance (writeMem s.i.toNat (decimalDigits (readV s x)) s))) ∨
      (s.i.toNat + 2 > 4095 ∧ execLdBVx x s = .next (faulted .outOfBoundsMemoryAccess s)) := by
  rcases withExtent_cases 3 s (.next (advance (writeMem (baseAddress s) (decimalDigits (readV s x)) s))) with h | h
  · have := (extentOk_iff _ _).mp h.1; exact .inl ⟨by simp [baseAddress] at this; omega, h.2⟩
  · have := mt (extentOk_iff _ _).mpr (by simpa using h.1); exact .inr ⟨by simp [baseAddress] at this; omega, h.2⟩

/-- FX55: a fault past the end of memory, else `V0` to `VX` stored (R146). -/
theorem execStRegs_cases (x : Reg) (s : State) :
    (s.i.toNat + x.val ≤ 4095 ∧ execStRegs x s = .next (advance (writeMem s.i.toNat (regsUpTo s x) s))) ∨
      (s.i.toNat + x.val > 4095 ∧ execStRegs x s = .next (faulted .outOfBoundsMemoryAccess s)) := by
  rcases withExtent_cases (x.val + 1) s (.next (advance (writeMem (baseAddress s) (regsUpTo s x) s))) with h | h
  · have := (extentOk_iff _ _).mp h.1; exact .inl ⟨by simp [baseAddress] at this; omega, h.2⟩
  · have := mt (extentOk_iff _ _).mpr (by simpa using h.1); exact .inr ⟨by simp [baseAddress] at this; omega, h.2⟩

@[simp] theorem regsUpTo_length (s : State) (x : Reg) : (regsUpTo s x).length = x.val + 1 := by simp [regsUpTo]

/-- Every byte after the store of FX55 (R146). -/
theorem readMem_storedRegs {x : Reg} {s : State} (hw : s.mem.wf = true) (h : s.i.toNat + x.val ≤ 4095) (a : Nat) :
    readMem (writeMem s.i.toNat (regsUpTo s x) s) a = byteAfterRegs x s a := by
  show memRead (storeBytes s.mem s.i.toNat (regsUpTo s x)) a = _
  rw [memRead_storeBytes hw _ (by simp [Config.memSize]; omega), byteAfterRegs]
  by_cases ha : s.i.toNat ≤ a ∧ a ≤ s.i.toNat + x.val
  · rw [dif_pos (by simp; omega), dif_pos ha]; simp [regsUpTo, readV]
  · rw [dif_neg (by simp; omega), dif_neg ha]; rfl

/-- Every byte after the store of FX33 (R144). -/
theorem readMem_storedDigits {x : Reg} {s : State} (hw : s.mem.wf = true) (h : s.i.toNat + 2 ≤ 4095) (a : Nat) :
    readMem (writeMem s.i.toNat (decimalDigits (readV s x)) s) a = byteAfterDigits x s a := by
  show memRead (storeBytes s.mem s.i.toNat (decimalDigits (readV s x))) a = _
  rw [memRead_storeBytes hw _ (by simp [decimalDigits, Config.memSize]; omega), byteAfterDigits]
  by_cases h0 : a = s.i.toNat
  · subst h0; simp [decimalDigits]
  by_cases h1 : a = s.i.toNat + 1
  · subst h1; simp [decimalDigits]
  by_cases h2 : a = s.i.toNat + 2
  · subst h2; simp [decimalDigits]
  rw [dif_neg (by simp [decimalDigits]; omega), if_neg h0, if_neg h1, if_neg h2]; rfl

/-- FX65: a fault past the end of memory, else `V0` to `VX` loaded (R147). -/
theorem execLdRegs_cases (x : Reg) (s : State) :
    (s.i.toNat + x.val ≤ 4095 ∧
        execLdRegs x s = .next (advance (writeVUpTo x (fun k => readMem s (s.i.toNat + k)) s))) ∨
      (s.i.toNat + x.val > 4095 ∧ execLdRegs x s = .next (faulted .outOfBoundsMemoryAccess s)) := by
  rcases withExtent_cases (x.val + 1) s
    (.next (advance (writeVUpTo x (fun k => readMem s (baseAddress s + k)) s))) with h | h
  · have := (extentOk_iff _ _).mp h.1; exact .inl ⟨by simp [baseAddress] at this; omega, h.2⟩
  · have := mt (extentOk_iff _ _).mpr (by simpa using h.1); exact .inr ⟨by simp [baseAddress] at this; omega, h.2⟩

/-! ### DXYN -/

/-- The sprite's row bytes (R151). -/
theorem mem_drawTargets (x y : Reg) (n : Fin 16) (s : State) (p : Nat × Nat) :
    p ∈ drawTargets x y n s ↔ SpriteOver s x y n p.1 p.2 := by
  unfold drawTargets SpriteOver
  rw [mem_spriteTargets]
  constructor
  · rintro ⟨r, c, h, hc, hb, rfl⟩
    rw [loadBytes_getElem] at hb
    exact ⟨r, c, by simpa using h, hc, hb, rfl, rfl⟩
  · rintro ⟨r, c, h, hc, hb, h1, h2⟩
    exact ⟨r, c, by simpa using h, hc, by rw [loadBytes_getElem]; exact hb, Prod.ext h1 h2⟩

theorem drawTargets_nodup (x y : Reg) (n : Fin 16) (s : State) : (drawTargets x y n s).Nodup := spriteTargets_nodup ..

/-- The screen test of a DXYN asks for every cell under a 1 bit (R153). -/
theorem onScreen_drawTargets (x y : Reg) (n : Fin 16) (s : State) :
    onScreen (drawTargets x y n s) = true ↔ SpriteOnScreen s x y n := by
  simp only [onScreen, List.all_eq_true, Bool.and_eq_true, decide_eq_true_eq, SpriteOnScreen]
  constructor
  · intro h col row ho
    have := h (col, row) ((mem_drawTargets ..).mpr ho); omega
  · intro h p hp
    have := h p.1 p.2 ((mem_drawTargets ..).mp hp); omega

/-- DXYN: drawn where source and targets are in bounds, else a fault (R152, R153). -/
theorem execDrw_cases (x y : Reg) (n : Fin 16) (s : State) :
    (SpriteInMemory s n ∧ SpriteOnScreen s x y n ∧ execDrw x y n s = .next (drawn (drawTargets x y n s) s)) ∨
      (¬ (SpriteInMemory s n ∧ SpriteOnScreen s x y n) ∧
        execDrw x y n s = .next (faulted .outOfBoundsMemoryAccess s)) := by
  have hm : extentOk (baseAddress s) n.val = true ↔ SpriteInMemory s n := extentOk_iff _ _
  unfold execDrw
  by_cases h1 : SpriteInMemory s n
  · by_cases h2 : SpriteOnScreen s x y n
    · exact .inl ⟨h1, h2, by simp only [withExtent, hm.mpr h1, (onScreen_drawTargets x y n s).mpr h2, if_true]⟩
    · have : onScreen (drawTargets x y n s) = false := by
        rw [← Bool.not_eq_true, onScreen_drawTargets]; exact h2
      exact .inr ⟨fun h => h2 h.2, by simp [withExtent, hm.mpr h1, this, raise_eq]⟩
  · have : extentOk (baseAddress s) n.val = false := by rw [← Bool.not_eq_true, hm]; exact h1
    exact .inr ⟨fun h => h1 h.1, by simp [withExtent, this, raise_eq]⟩

/-- Every cell after a drawing: inverted under a 1 bit of the sprite, else as before (R152). -/
theorem cell_drawn {x y : Reg} {n : Fin 16} {s : State} (h : SpriteOnScreen s x y n) (col row : Nat) :
    cell (composite s.fb (drawTargets x y n s)).1 col row = (cell s.fb col row ^^ decide ((col, row) ∈ drawTargets x y n s)) :=
  cell_composite _ _ (drawTargets_nodup ..) ((onScreen_drawTargets ..).mpr h) _ _

/-! ### Every instruction, and the step -/

/-- Every instruction answers a next state: no meaning stops (R97, R176). -/
theorem exec_next (i : Instr) (s : State) : ∃ t, exec i s = .next t := by
  have hx : ∀ n (s t : State), ∃ u, withExtent n s (.next t) = .next u := by
    intro n s t; rcases withExtent_cases n s (.next t) with h | h <;> exact ⟨_, h.2⟩
  cases i
  case ret => rcases execRet_cases s with h | ⟨w, r, h⟩ <;> exact ⟨_, h.2⟩
  case call nnn => rcases execCall_cases nnn s with h | h <;> exact ⟨_, h.2⟩
  case drw x y n => rcases execDrw_cases x y n s with h | h <;> first | exact ⟨_, h.2⟩ | exact ⟨_, h.2.2⟩
  case ldBVx => exact hx _ _ _
  case stRegs => exact hx _ _ _
  case ldRegs => exact hx _ _ _
  all_goals exact ⟨_, rfl⟩

/-- What a step that answers a next state did (R90): the machine had not faulted, and the step was a fetch fault, an
illegal word, or one instruction run on the state with its outputs cleared, followed by the tick. -/
theorem step_cases {mode : TimerMode} {s t : State} (h : stepIn mode s = .next t) : s.fault = .none ∧
    ((s.pc.toNat > 4094 ∧ t = faulted .outOfBoundsMemoryAccess s) ∨
      (s.pc.toNat ≤ 4094 ∧ (∃ e, fetched s = .error e) ∧ t = faulted .unsupportedOpcode s) ∨
      (∃ i u, s.pc.toNat ≤ 4094 ∧ fetched s = .ok i ∧ exec i (clearOutputs s) = .next u ∧ t = afterExecute mode u)) := by
  by_cases hf : s.fault = .none
  · refine ⟨hf, ?_⟩
    rcases stepIn_cases (mode := mode) hf with h1 | h1 | ⟨i, ho, hi, hr⟩
    · rw [h1.2] at h; cases h
      exact .inl ⟨by simpa [fetchOk] using h1.1, rfl⟩
    · rw [h1.2.2] at h; cases h
      exact .inr (.inl ⟨by simpa [fetchOk] using h1.1, h1.2.1, rfl⟩)
    · obtain ⟨u, hu⟩ := exec_next i (clearOutputs s)
      rw [hr, runInstr, hu] at h; cases h
      exact .inr (.inr ⟨i, u, by simpa [fetchOk] using ho, hi, hu, rfl⟩)
  · rw [stepIn_faulted hf] at h; cases h

end Sys2Proof.Machine
end

