-- ==== Sys2Proof/Laws/PerInstr.lean ====
section
/-! SUPPORT. Per instruction, one lemma per constructor of Instr: its own word carries the fixed digits of its row (spec/30_encoding.md R75, R76). -/

namespace Sys2Proof.Laws

/-- The encoded word of the instruction matches the instruction's row of the opcode map (R75, R76). -/
def FixedDigits.Statement (i : Instr) : Prop := i.row.covers (encode i) = true

/-- A word made by format `A` matches a row with mask 0xF000. -/
theorem FixedDigits.ofA (f : Nibble) (nnn : Addr12) : Row.covers ⟨wordA f 0, 0xF000⟩ (wordA f nnn) = true := by
  simp [Row.covers, and_F000]

/-- A word made by format `XI` matches a row with mask 0xF000. -/
theorem FixedDigits.ofXI (f : Nibble) (x : Reg) (nn : Byte) : Row.covers ⟨wordA f 0, 0xF000⟩ (wordXI f x nn) = true := by
  simp [Row.covers, and_F000]

/-- A word made by format `XK` matches a row with mask 0xF0FF. -/
theorem FixedDigits.ofXK (f : Nibble) (x : Reg) (k : Byte) : Row.covers ⟨wordXI f 0 k, 0xF0FF⟩ (wordXI f x k) = true := by
  simp [Row.covers, and_F0FF]

/-- A word made by format `XY` matches a row with mask 0xF00F. -/
theorem FixedDigits.ofXY (f : Nibble) (x y : Reg) (k : Nibble) : Row.covers ⟨wordXY f 0 0 k, 0xF00F⟩ (wordXY f x y k) = true := by
  simp [Row.covers, and_F00F]

/-- A word made by format `XYN` matches a row with mask 0xF000. -/
theorem FixedDigits.ofXYN (f : Nibble) (x y : Reg) (k : Nibble) : Row.covers ⟨wordA f 0, 0xF000⟩ (wordXY f x y k) = true := by
  simp [Row.covers, and_F000]

theorem FixedDigits.cls : FixedDigits.Statement (.cls) := rfl
theorem FixedDigits.ret : FixedDigits.Statement (.ret) := rfl
theorem FixedDigits.jp (nnn : Addr12) : FixedDigits.Statement (.jp nnn) := FixedDigits.ofA 0x1 nnn
theorem FixedDigits.call (nnn : Addr12) : FixedDigits.Statement (.call nnn) := FixedDigits.ofA 0x2 nnn
theorem FixedDigits.seImm (x : Reg) (nn : Byte) : FixedDigits.Statement (.seImm x nn) := FixedDigits.ofXI 0x3 x nn
theorem FixedDigits.sneImm (x : Reg) (nn : Byte) : FixedDigits.Statement (.sneImm x nn) := FixedDigits.ofXI 0x4 x nn
theorem FixedDigits.seReg (x y : Reg) : FixedDigits.Statement (.seReg x y) := FixedDigits.ofXY 0x5 x y 0x0
theorem FixedDigits.ldImm (x : Reg) (nn : Byte) : FixedDigits.Statement (.ldImm x nn) := FixedDigits.ofXI 0x6 x nn
theorem FixedDigits.addImm (x : Reg) (nn : Byte) : FixedDigits.Statement (.addImm x nn) := FixedDigits.ofXI 0x7 x nn
theorem FixedDigits.ldReg (x y : Reg) : FixedDigits.Statement (.ldReg x y) := FixedDigits.ofXY 0x8 x y 0x0
theorem FixedDigits.orReg (x y : Reg) : FixedDigits.Statement (.orReg x y) := FixedDigits.ofXY 0x8 x y 0x1
theorem FixedDigits.andReg (x y : Reg) : FixedDigits.Statement (.andReg x y) := FixedDigits.ofXY 0x8 x y 0x2
theorem FixedDigits.xorReg (x y : Reg) : FixedDigits.Statement (.xorReg x y) := FixedDigits.ofXY 0x8 x y 0x3
theorem FixedDigits.addReg (x y : Reg) : FixedDigits.Statement (.addReg x y) := FixedDigits.ofXY 0x8 x y 0x4
theorem FixedDigits.subReg (x y : Reg) : FixedDigits.Statement (.subReg x y) := FixedDigits.ofXY 0x8 x y 0x5
theorem FixedDigits.shr (x y : Reg) : FixedDigits.Statement (.shr x y) := FixedDigits.ofXY 0x8 x y 0x6
theorem FixedDigits.subn (x y : Reg) : FixedDigits.Statement (.subn x y) := FixedDigits.ofXY 0x8 x y 0x7
theorem FixedDigits.shl (x y : Reg) : FixedDigits.Statement (.shl x y) := FixedDigits.ofXY 0x8 x y 0xE
theorem FixedDigits.sneReg (x y : Reg) : FixedDigits.Statement (.sneReg x y) := FixedDigits.ofXY 0x9 x y 0x0
theorem FixedDigits.ldI (nnn : Addr12) : FixedDigits.Statement (.ldI nnn) := FixedDigits.ofA 0xA nnn
theorem FixedDigits.jpV0 (nnn : Addr12) : FixedDigits.Statement (.jpV0 nnn) := FixedDigits.ofA 0xB nnn
theorem FixedDigits.rnd (x : Reg) (nn : Byte) : FixedDigits.Statement (.rnd x nn) := FixedDigits.ofXI 0xC x nn
theorem FixedDigits.drw (x y : Reg) (n : Fin 16) : FixedDigits.Statement (.drw x y n) := FixedDigits.ofXYN 0xD x y (nibble n)
theorem FixedDigits.skp (x : Reg) : FixedDigits.Statement (.skp x) := FixedDigits.ofXK 0xE x 0x9E
theorem FixedDigits.sknp (x : Reg) : FixedDigits.Statement (.sknp x) := FixedDigits.ofXK 0xE x 0xA1
theorem FixedDigits.ldVxDt (x : Reg) : FixedDigits.Statement (.ldVxDt x) := FixedDigits.ofXK 0xF x 0x07
theorem FixedDigits.ldVxK (x : Reg) : FixedDigits.Statement (.ldVxK x) := FixedDigits.ofXK 0xF x 0x0A
theorem FixedDigits.ldDtVx (x : Reg) : FixedDigits.Statement (.ldDtVx x) := FixedDigits.ofXK 0xF x 0x15
theorem FixedDigits.ldStVx (x : Reg) : FixedDigits.Statement (.ldStVx x) := FixedDigits.ofXK 0xF x 0x18
theorem FixedDigits.addIVx (x : Reg) : FixedDigits.Statement (.addIVx x) := FixedDigits.ofXK 0xF x 0x1E
theorem FixedDigits.ldFVx (x : Reg) : FixedDigits.Statement (.ldFVx x) := FixedDigits.ofXK 0xF x 0x29
theorem FixedDigits.ldBVx (x : Reg) : FixedDigits.Statement (.ldBVx x) := FixedDigits.ofXK 0xF x 0x33
theorem FixedDigits.stRegs (x : Reg) : FixedDigits.Statement (.stRegs x) := FixedDigits.ofXK 0xF x 0x55
theorem FixedDigits.ldRegs (x : Reg) : FixedDigits.Statement (.ldRegs x) := FixedDigits.ofXK 0xF x 0x65

end Sys2Proof.Laws
end

