-- ==== Sys2Proof/Tests/Slice0.lean ====
section
/-! SUPPORT. Tests with their expected results taken from spec/95_test_vectors.md (the vector is named at each test), the smoke test of well-formedness, one written-out word for every constructor, and for each statement with hypotheses a state that meets them. -/

namespace Sys2Proof.Tests

open Sys2Proof.Machine

/-! ### Helpers -/

/-- The result is a next state and the check holds of it. -/
def check (r : Result) (p : State → Bool) : Bool :=
  match r with
  | .next t => p t
  | .fault _ => false
  | .refused _ => false

/-- A check that passes names a next state. -/
theorem next_of_check {r : Result} {p : State → Bool} (h : check r p = true) : ∃ t, r = .next t ∧ p t = true := by
  cases r with
  | next t => exact ⟨t, rfl, h⟩
  | fault _ => cases h
  | refused _ => cases h

/-- Registers `V0`, `V1`, … set from a list, the others 0. -/
def regs (bs : List Byte) : Vector Byte 16 := Vector.ofFn fun r => bs.getD r.val 0

/-- The start state of the vectors: reset, the registers and I given, and the word at the pc. -/
def start (w : Nat) (bs : List Byte) (i : Word) : State :=
  { State.reset with v := regs bs, i := i }.withFetchWord 16 w

/-- The same with bytes stored at I. -/
def startMem (w : Nat) (bs : List Byte) (i : Word) (data : List Byte) : State :=
  writeMem i.toNat data (start w bs i)

/-- A start state at another pc. -/
def startAt (w : Nat) (pc : Word) (bs : List Byte) : State :=
  { State.reset with v := regs bs, pc := pc }.withFetchWord 16 w

/-- A call stack of `n` entries 0x202. -/
def deep (n : Nat) : List Word := List.replicate n 0x202

/-! ### Well-formedness: one ill-formed word for each illegal family of R77, refused -/

theorem test_illegal_family0 : wordWellFormed 0x0123 = false ∧ decode 0x0123 = .error .illegalFamily0 := by decide
theorem test_illegal_family5 : wordWellFormed 0x5AB1 = false ∧ decode 0x5AB1 = .error .illegalFamily5 := by decide
theorem test_illegal_family8 : wordWellFormed 0x8AB8 = false ∧ decode 0x8ABF = .error .illegalFamily8 := by decide
theorem test_illegal_family9 : wordWellFormed 0x9ABF = false ∧ decode 0x9ABF = .error .illegalFamily9 := by decide
theorem test_illegal_familyE : wordWellFormed 0xE1A0 = false ∧ decode 0xE1A0 = .error .illegalFamilyE := by decide
theorem test_illegal_familyF : wordWellFormed 0xF175 = false ∧ decode 0xF175 = .error .illegalFamilyF := by decide
theorem test_truncated : decodeBytes [] = .error .truncated ∧ decodeBytes [0x12] = .error .truncated := by decide
/-- The unimplemented rows are well formed: they decode by name (R78). -/
theorem test_unimplemented_well_formed : wordWellFormed 0x8AB6 = true ∧ wordIllegal 0x8AB6 = false := by decide

/-! ### Decoding: a word for every constructor, written out digit by digit from R72 and R76 (95_test_vectors 2.1) -/

theorem test_decode_0_1_2 : decode 0x00E0 = .ok .cls ∧ decode 0x00EE = .ok .ret ∧ decode 0x1234 = .ok (.jp 0x234) ∧
    decode 0x2FFF = .ok (.call 0xFFF) := by decide
theorem test_decode_3_to_7 : decode 0x3AFF = .ok (.seImm 10 0xFF) ∧ decode 0x4B01 = .ok (.sneImm 11 1) ∧
    decode 0x5AB0 = .ok (.seReg 10 11) ∧ decode 0x6F00 = .ok (.ldImm 15 0) ∧ decode 0x7123 = .ok (.addImm 1 0x23) := by decide
theorem test_decode_8_low : decode 0x8AB0 = .ok (.ldReg 10 11) ∧ decode 0x8AB1 = .ok (.orReg 10 11) ∧
    decode 0x8AB2 = .ok (.andReg 10 11) ∧ decode 0x8AB3 = .ok (.xorReg 10 11) ∧ decode 0x8AB4 = .ok (.addReg 10 11) := by decide
theorem test_decode_8_high : decode 0x8AB5 = .ok (.subReg 10 11) ∧ decode 0x8AB6 = .ok (.shr 10 11) ∧
    decode 0x8AB7 = .ok (.subn 10 11) ∧ decode 0x8ABE = .ok (.shl 10 11) := by decide
theorem test_decode_9_to_D : decode 0x9AB0 = .ok (.sneReg 10 11) ∧ decode 0xA123 = .ok (.ldI 0x123) ∧
    decode 0xBFFF = .ok (.jpV0 0xFFF) ∧ decode 0xC1F0 = .ok (.rnd 1 0xF0) ∧ decode 0xD125 = .ok (.drw 1 2 5) := by decide
theorem test_decode_E : decode 0xE19E = .ok (.skp 1) ∧ decode 0xE1A1 = .ok (.sknp 1) := by decide
theorem test_decode_F_low : decode 0xF107 = .ok (.ldVxDt 1) ∧ decode 0xF10A = .ok (.ldVxK 1) ∧
    decode 0xF115 = .ok (.ldDtVx 1) ∧ decode 0xF118 = .ok (.ldStVx 1) ∧ decode 0xF11E = .ok (.addIVx 1) := by decide
theorem test_decode_F_high : decode 0xF129 = .ok (.ldFVx 1) ∧ decode 0xF133 = .ok (.ldBVx 1) ∧
    decode 0xF155 = .ok (.stRegs 1) ∧ decode 0xFF65 = .ok (.ldRegs 15) := by decide
/-- The bytes of an encoded instruction, high byte first (R53, vector D1). -/
theorem test_encode_bytes : encodeBytes (.jp 0x234) = [0x12, 0x34] ∧ encodeBytes (.drw 1 2 5) = [0xD1, 0x25] := by decide
theorem test_table_word : decodeTableWord 16 0xF165 = some (.ldRegs 1) ∧ decodeTableWord 16 0xF166 = none := by decide

/-! ### Fetch, outputs, tick -/

/-- D2: an odd address is a legal pc. -/
theorem test_odd_pc : check (step (startAt 0x6A05 0x201 [])) (fun t => readV t 10 == 5 && t.pc == 0x203) = true := by decide
/-- D4: no partial fetch at 0xFFF. -/
theorem test_fetch_at_end : check (step { State.reset with pc := 0xFFF })
    (fun t => t.fault == .outOfBoundsMemoryAccess && t.pc == 0xFFF) = true := by decide
/-- D6: an illegal word does not tick. -/
theorem test_no_tick_on_fault : check (step { State.reset with dt := 3, st := 1 })
    (fun t => t.fault == .unsupportedOpcode && t.dt == 3 && t.st == 1 && !t.beep) = true := by decide
/-- T10: every instruction ticks, and the beep is this step's. -/
theorem test_tick_beeps : check (step { start 0x6000 [] 0 with dt := 1, st := 1 })
    (fun t => t.dt == 0 && t.st == 0 && t.beep && t.pc == 0x202) = true := by decide
/-- T12: under External the step does not tick, the host's tick does. -/
theorem test_external_tick : check (stepIn .external { start 0x6000 [] 0 with dt := 200 })
    (fun t => t.dt == 200 && (hostTick t).dt == 199) = true := by decide
/-- R98: a faulted machine has no step. -/
theorem test_faulted_machine_stops :
    step { State.reset with fault := .stackOverflow } = .fault (.terminated .stackOverflow) := rfl

/-! ### Control flow -/

/-- C8 and C7. -/
theorem test_ret : check (step (start 0x00EE [] 0)) (fun t => t.fault == .stackUnderflow && t.pc == 0x200) = true ∧
    check (step { start 0x00EE [] 0 with stack := [0x206] }) (fun t => t.pc == 0x206 && sp t == 0) = true := by decide
/-- C1. -/
theorem test_jp : check (step (start 0x1ABC [] 0)) (fun t => t.pc == 0xABC) = true := by decide
/-- C4 and C5. -/
theorem test_call : check (step (start 0x2345 [] 0))
      (fun t => t.pc == 0x345 && sp t == 1 && stackEntry t 0 == some 0x202) = true ∧
    check (step { start 0x2345 [] 0 with stack := deep 16 })
      (fun t => t.fault == .stackOverflow && sp t == 16 && t.pc == 0x200) = true := by decide
/-- C6: the pushed address needs 13 bits. -/
theorem test_call_at_top : check (step (startAt 0x2345 0xFFE [])) (fun t => stackEntry t 0 == some 0x1000) = true := by decide
/-- C10: the target of BNNN is not reduced. -/
theorem test_jpV0 : check (step (start 0xBFFF [0xFF] 0)) (fun t => t.pc == 0x10FE && t.fault == .none) = true := by decide

/-! ### Skips -/

/-- K1 and K2. -/
theorem test_seImm : check (step (startAt 0x3105 0x202 [0, 5])) (fun t => t.pc == 0x206) = true ∧
    check (step (startAt 0x3105 0x202 [0, 4])) (fun t => t.pc == 0x204) = true := by decide
/-- K3 and K4. -/
theorem test_sneImm : check (step (start 0x4105 [0, 5] 0)) (fun t => t.pc == 0x202) = true ∧
    check (step (start 0x4105 [0, 4] 0)) (fun t => t.pc == 0x204) = true := by decide
/-- K5 and K6. -/
theorem test_seReg : check (step (start 0x5120 [0, 7, 7] 0)) (fun t => t.pc == 0x204) = true ∧
    check (step (start 0x5120 [0, 7, 8] 0)) (fun t => t.pc == 0x202) = true := by decide
/-- K9 and K10. -/
theorem test_sneReg : check (step (start 0x9120 [0, 7, 8] 0)) (fun t => t.pc == 0x204) = true ∧
    check (step (start 0x9120 [0, 7, 7] 0)) (fun t => t.pc == 0x202) = true := by decide
/-- K15 and K14: only the low nibble indexes the keypad. -/
theorem test_skp : check (step (keyDown 7 (start 0xE39E [0, 0, 0, 0xF7] 0))) (fun t => t.pc == 0x204) = true ∧
    check (step (start 0xE39E [0, 0, 0, 7] 0)) (fun t => t.pc == 0x202) = true := by decide
/-- K16 and K17. -/
theorem test_sknp : check (step (start 0xE3A1 [0, 0, 0, 7] 0)) (fun t => t.pc == 0x204) = true ∧
    check (step (keyDown 7 (start 0xE3A1 [0, 0, 0, 7] 0))) (fun t => t.pc == 0x202) = true := by decide

/-! ### Load, arithmetic, logic -/

/-- A1. -/
theorem test_ldImm : check (step (start 0x6A05 [] 0)) (fun t => readV t 10 == 5 && t.pc == 0x202) = true := by decide
/-- A3: no carry out of 7XNN; VF keeps its value. -/
theorem test_addImm : check (step (writeV 15 0x55 (start 0x7001 [0xFF] 0))) (fun t => readV t 0 == 0 && readV t 15 == 0x55) = true := by
  decide
/-- A5. -/
theorem test_ldReg : check (step (start 0x8230 [0, 0, 0, 0x7C] 0)) (fun t => readV t 2 == 0x7C) = true := by decide
/-- A6, with VF kept. -/
theorem test_orReg : check (step (writeV 15 0xAA (start 0x8011 [0xF0, 0x3C] 0))) (fun t => readV t 0 == 0xFC && readV t 15 == 0xAA) = true := by
  decide
theorem test_andReg : check (step (writeV 15 0xAA (start 0x8012 [0xF0, 0x3C] 0))) (fun t => readV t 0 == 0x30 && readV t 15 == 0xAA) = true := by
  decide
theorem test_xorReg : check (step (writeV 15 0xAA (start 0x8013 [0xF0, 0x3C] 0))) (fun t => readV t 0 == 0xCC && readV t 15 == 0xAA) = true := by
  decide
/-- A9 and A8: sum 255 is no carry, sum 256 is. -/
theorem test_addReg : check (step (writeV 15 1 (start 0x8014 [0x7F, 0x80] 0))) (fun t => readV t 0 == 0xFF && readV t 15 == 0) = true ∧
    check (step (start 0x8014 [0xFF, 0x01] 0)) (fun t => readV t 0 == 0 && readV t 15 == 1) = true := by decide
/-- A12 and A14: VF as destination keeps the flag, VF as source is read before. -/
theorem test_addReg_vf : check (step (writeV 15 0x10 (start 0x8F14 [0, 0x20] 0))) (fun t => readV t 15 == 0) = true ∧
    check (step (writeV 15 3 (start 0x80F4 [5] 0))) (fun t => readV t 0 == 8 && readV t 15 == 0) = true := by decide
/-- A18 and A19. -/
theorem test_subReg : check (step (writeV 15 1 (start 0x8015 [3, 5] 0))) (fun t => readV t 0 == 0xFE && readV t 15 == 0) = true ∧
    check (step (start 0x8015 [7, 7] 0)) (fun t => readV t 0 == 0 && readV t 15 == 1) = true := by decide
/-- A22 and A24. -/
theorem test_subReg_vf : check (step (writeV 15 5 (start 0x8F15 [0, 3] 0))) (fun t => readV t 15 == 1) = true ∧
    check (step (writeV 15 7 (start 0x80F5 [5] 0))) (fun t => readV t 0 == 0xFE && readV t 15 == 0) = true := by decide
/-- A25. -/
theorem test_shr : check (step (start 0x8016 [5, 3] 0)) (fun t => t.fault == .unsupportedOpcode && readV t 0 == 5) = true := by decide
theorem test_subn : check (step (start 0x8017 [5, 3] 0)) (fun t => t.fault == .unsupportedOpcode && readV t 0 == 5) = true := by decide
theorem test_shl : check (step (start 0x801E [5, 3] 0)) (fun t => t.fault == .unsupportedOpcode && readV t 0 == 5) = true := by decide
/-- A27, for the free byte drawn: the low nibble of it. -/
theorem test_rnd : execRnd 0 0x0F State.reset =
    .next (advance (writeV 0 (Config.rnd 0 &&& 0x0F) (countDraw State.reset))) := rfl

/-! ### Index register and memory -/

/-- M2. -/
theorem test_ldI : check (step (start 0xAFFF [] 0)) (fun t => t.i == 0xFFF && t.pc == 0x202) = true := by decide
/-- M3. -/
theorem test_addIVx : check (step (start 0xF01E [1] 5)) (fun t => t.fault == .unsupportedOpcode && t.i == 5) = true := by decide
/-- M5 and M6: the high nibble is ignored. -/
theorem test_ldFVx : check (step (start 0xF029 [0xFA] 0)) (fun t => t.i == 0x032) = true ∧
    check (step (start 0xF029 [0x1F] 0)) (fun t => t.i == 0x04B) = true := by decide
/-- M7 and M10. -/
theorem test_ldBVx : check (step (start 0xF033 [234] 0x300))
      (fun t => readMem t 0x300 == 2 && readMem t 0x301 == 3 && readMem t 0x302 == 4 && t.i == 0x300) = true ∧
    check (step (start 0xF033 [255] 0xFFE)) (fun t => t.fault == .outOfBoundsMemoryAccess && readMem t 0xFFE == 0) = true := by
  decide
/-- M12 and the fault of M14's kind. -/
theorem test_stRegs : check (step (start 0xF255 [0x11, 0x22, 0x33, 0x44] 0x300))
      (fun t => readMem t 0x300 == 0x11 && readMem t 0x302 == 0x33 && readMem t 0x303 == 0 && t.i == 0x300) = true ∧
    check (step (start 0xF155 [1, 2] 0xFFF)) (fun t => t.fault == .outOfBoundsMemoryAccess && readMem t 0xFFF == 0) = true := by
  decide
/-- M15 and M18. -/
theorem test_ldRegs : check (step (startMem 0xF265 [0, 0, 0, 0x99] 0x300 [1, 2, 3, 4]))
      (fun t => readV t 0 == 1 && readV t 2 == 3 && readV t 3 == 0x99 && t.i == 0x300) = true ∧
    check (step (startMem 0xF165 [7, 8] 0xFFF [0x5A])) (fun t => t.fault == .outOfBoundsMemoryAccess && readV t 0 == 7) = true := by
  decide
/-- P5: the word stored by FX55 is what the next step fetches. -/
theorem test_store_is_fetched : check (step (start 0xF155 [0x12, 0x08] 0x202))
    (fun t => fetched t == .ok (.jp 0x208)) = true := by decide

/-! ### Display -/

/-- G1. -/
theorem test_cls : check (step { start 0x00E0 [] 0 with fb := flipCell (flipCell clearedFb 0 0) 63 31 })
    (fun t => !cell t.fb 0 0 && !cell t.fb 63 31 && !t.frameDirty && t.pc == 0x202) = true := by decide
/-- G2 and G4. -/
theorem test_drw : check (step (startMem 0xD011 [] 0x300 [0x81]))
      (fun t => cell t.fb 0 0 && cell t.fb 7 0 && !cell t.fb 1 0 && readV t 15 == 0 && t.frameDirty) = true ∧
    check (step { startMem 0xD011 [] 0x300 [0xC0] with fb := flipCell clearedFb 0 0 })
      (fun t => !cell t.fb 0 0 && cell t.fb 1 0 && readV t 15 == 1) = true := by decide
/-- G6 and G7: an overhanging 1 bit faults and draws nothing, an overhanging 0 bit does not. -/
theorem test_drw_edge : check (step (writeV 15 9 (startMem 0xD011 [57, 31] 0x300 [0xFF])))
      (fun t => t.fault == .outOfBoundsMemoryAccess && !cell t.fb 57 31 && readV t 15 == 9 && !t.frameDirty) = true ∧
    check (step (startMem 0xD011 [57, 31] 0x300 [0xFE]))
      (fun t => t.fault == .none && cell t.fb 57 31 && cell t.fb 63 31) = true := by decide

/-! ### Timers and key wait -/

/-- T1. -/
theorem test_ldVxDt : check (step { start 0xF407 [] 0 with dt := 4 }) (fun t => readV t 4 == 4 && t.dt == 3) = true := by decide
/-- T9. -/
theorem test_ldVxK : check (step (start 0xF00A [] 0)) (fun t => t.fault == .unsupportedOpcode && readV t 0 == 0) = true := by decide
/-- T3. -/
theorem test_ldDtVx : check (step { start 0xF315 [0, 0, 0, 5] 0 with dt := 9 }) (fun t => t.dt == 4) = true := by decide
/-- T7 and T8. -/
theorem test_ldStVx : check (step (start 0xF218 [0, 0, 1] 0)) (fun t => t.st == 0 && t.beep) = true ∧
    check (step { start 0xF218 [0, 0, 0] 0 with st := 5 }) (fun t => t.st == 0 && !t.beep) = true := by decide

/-! ### Reset, load, host operations -/

/-- H1: the first and the last glyph, and zero above. -/
theorem test_font : (List.range 5).map (readMem State.reset) = [0xF0, 0x90, 0x90, 0x90, 0xF0] ∧
    (List.range 6).map (fun k => readMem State.reset (75 + k)) = [0xF0, 0x80, 0xF0, 0x80, 0x80, 0x00] := by decide
/-- S5: the two bytes of CLS loaded at 0x200. -/
theorem test_load : readMem (launch [0x00, 0xE0] State.reset) 0x201 = 0xE0 ∧
    fetched (launch [0x00, 0xE0] State.reset) = .ok .cls := by decide
/-- H5. -/
theorem test_keys : (keyDown 7 (keyDown 7 State.reset)).key[7] = true ∧
    (keyUp 7 (keyDown 7 State.reset)).key[7] = false := by decide
/-- H6. -/
theorem test_init_clears_fault : (init { State.reset with fault := .stackOverflow }).fault = .none := by decide

/-! ### Witnesses: for each statement with hypotheses, states and operands that meet all of them -/

/-- EncodeOfDecodeIsTheWord, DecodeFollowsTheOpcodeMap (second clause). -/
theorem witness_decodes : decode 0x8AB5 = .ok (.subReg 10 11) := by decide
/-- DecodeFollowsTheOpcodeMap (third and fourth clause). -/
theorem witness_row : ∃ r ∈ opcodeRows, (0x8AB5 : Word) &&& r.mask = r.value := by decide
/-- IllegalWordsAreExactlyTheTable (third clause): the first step after reset, nothing loaded (D5). -/
theorem witness_illegal_word : State.reset.fault = .none ∧ fetchOk State.reset = true ∧
    fetchBytes State.reset = [0x00, 0x00] ∧ wordIllegal (wordOfBytes 0x00 0x00) = true := by decide
/-- FetchIsBoundedAndBigEndian, at the boundary. -/
theorem witness_fetch_fault : ∃ s : State, s.fault = .none ∧ s.pc.toNat = 4095 :=
  ⟨{ State.reset with pc := 0xFFF }, by decide⟩
/-- StepRunsTheDecodedInstruction, at the last pc that can be fetched (D3). -/
theorem witness_fetched : (startAt 0x6A05 0xFFE []).fault = .none ∧ (startAt 0x6A05 0xFFE []).pc.toNat = 4094 ∧
    fetched (startAt 0x6A05 0xFFE []) = .ok (.ldImm 10 5) := by decide
/-- StepRunsTheDecodedInstruction: the case that faults and the case that does not. -/
theorem witness_exec_fault_or_not :
    check (exec (.shr 0 1) (clearOutputs (start 0x8016 [] 0))) (fun t => t.fault != .none) = true ∧
    check (exec (.ldImm 10 5) (clearOutputs (start 0x6A05 [] 0))) (fun t => t.fault == .none) = true := by decide
/-- StepExistsExactlyWhenNotFaulted, both clauses. -/
theorem witness_faulted_or_not : (∃ s : State, s.fault ≠ .none) ∧ ∃ s : State, s.fault = .none :=
  ⟨⟨{ State.reset with fault := .stackOverflow }, by decide⟩, ⟨State.reset, rfl⟩⟩
/-- TickLowersBothTimers, OutputsOfAStep, PcAfterEachClassOfInstruction, TimersRiseOnlyByTheirWriters, OnlyRndReadsTheRandomInput:
a step that completes, of an instruction other than FX15, FX18 and CXNN. -/
theorem witness_step_completes : (∃ t, stepIn .perStep (start 0x6A05 [] 0) = .next t ∧ (t.fault == .none) = true) ∧
    fetched (start 0x6A05 [] 0) = .ok (.ldImm 10 5) :=
  ⟨next_of_check (by decide), by decide⟩
/-- FaultingStepChangesNothingElse, FaultsAreRaisedExactlyWhen: a step that faults. -/
theorem witness_step_faults : ∃ t, stepIn .perStep State.reset = .next t ∧ (t.fault == .unsupportedOpcode) = true :=
  next_of_check (by decide)
/-- FaultsAreRaisedExactlyWhen: the other codes, each at the boundary of its condition, with the neighbour that completes. -/
theorem witness_fault_boundaries :
    check (stepIn .external { start 0x2345 [] 0 with stack := deep 16 }) (fun t => t.fault == .stackOverflow) = true ∧
    check (stepIn .external { start 0x2345 [] 0 with stack := deep 15 }) (fun t => t.fault == .none) = true ∧
    check (stepIn .external (start 0x00EE [] 0)) (fun t => t.fault == .stackUnderflow) = true ∧
    check (stepIn .external (start 0xFF65 [] 0xFF1)) (fun t => t.fault == .outOfBoundsMemoryAccess) = true ∧
    check (stepIn .external (start 0xFF65 [] 0xFF0)) (fun t => t.fault == .none) = true := by decide
/-- StepKeepsTheInvariant: a state that meets the invariant, from which `witness_step_completes` gives a step. -/
theorem witness_invariant : StateInv (start 0x6A05 [] 0) := by
  have h1 : (start 0x6A05 [] 0).mem.wf = true := by decide
  have h2 : (start 0x6A05 [] 0).pc = 0x200 := by decide
  have h3 : (start 0x6A05 [] 0).stack = [] := by decide
  refine ⟨h1, by decide, by rw [h2]; decide, by rw [sp, h3]; decide, ?_⟩
  rw [h3]; intro w hw; cases hw
/-- ReachableStatesMeetTheInvariant: a launched program, a key event, a tick. -/
theorem witness_reachable : Reachable .external (hostTick (keyDown 7 (load [0x12, 0x00] (initWith Config.font State.reset)))) :=
  .tick _ rfl (.keyDown _ _ (.launch _ _ _))
/-- CanonicalMemoryIsDeterminedByItsBytes: a memory that lists a byte. -/
theorem witness_memory : Memory.wf [(0x300, 1)] = true ∧ Memory.wf (memWrite [] 0x300 1) = true ∧
    ∀ a, memRead [(0x300, 1)] a = memRead (memWrite [] 0x300 1) a := ⟨by decide, by decide, fun _ => rfl⟩
/-- PcAfterEachClassOfInstruction: an exec of every class answers a next state, faulted or not. -/
theorem witness_pc_classes :
    check (exec (.ldImm 1 2) State.reset) (fun t => t.fault == .none) = true ∧
    check (exec (.seImm 0 0) State.reset) (fun t => t.fault == .none && t.pc == 0x204) = true ∧
    check (exec (.seImm 0 1) State.reset) (fun t => t.fault == .none && t.pc == 0x202) = true ∧
    check (exec (.jp 0x345) State.reset) (fun t => t.fault == .none) = true ∧
    check (exec (.jpV0 0xFFF) State.reset) (fun t => t.fault == .none) = true ∧
    check (exec .ret { State.reset with stack := [0x206] }) (fun t => t.fault == .none && t.pc == 0x206) = true ∧
    check (exec .ret State.reset) (fun t => t.fault != .none) = true := by decide
/-- RegistersChangeOnlyWhereListed: a step that changes a register. -/
theorem witness_register_changes : check (stepIn .perStep (start 0x6A05 [] 0))
    (fun t => readV t 10 != readV (start 0x6A05 [] 0) 10) = true := by decide
/-- StateChangesOnlyByItsWriters: a step for each clause that changes what the clause is about. -/
theorem witness_memory_changes : readMem (start 0xF033 [234] 0x300) 0x300 = 0 ∧
    check (stepIn .perStep (start 0xF033 [234] 0x300)) (fun t => readMem t 0x300 == 2) = true := by decide
theorem witness_index_and_stack_change : check (stepIn .perStep (start 0xAFFF [] 0)) (fun t => t.i != 0) = true ∧
    check (stepIn .perStep (start 0x2345 [] 0)) (fun t => sp t == 1) = true := by decide
theorem witness_screen_changes : check (stepIn .perStep (startMem 0xD011 [] 0x300 [0x80])) (fun t => cell t.fb 0 0) = true := by
  decide
/-- TimersRiseOnlyByTheirWriters: steps that raise each timer. -/
theorem witness_timers_rise : check (stepIn .perStep (start 0xF315 [0, 0, 0, 5] 0)) (fun t => decide (t.dt.toNat > 0)) = true ∧
    check (stepIn .perStep (start 0xF318 [0, 0, 0, 5] 0)) (fun t => decide (t.st.toNat > 0)) = true := by decide
/-- OnlyRndReadsTheRandomInput: no CXNN at the pc, faulted (the second clause) or not (the first). -/
theorem witness_no_rnd : (∀ x nn, fetched (start 0x6A05 [] 0) ≠ .ok (.rnd x nn)) ∧
    (∀ x nn, fetched { start 0x6A05 [] 0 with fault := .stackOverflow } ≠ .ok (.rnd x nn)) ∧
    ∃ r, stepIn .perStep { start 0x6A05 [] 0 with fault := .stackOverflow } = .fault r := by
  have h1 : fetched (start 0x6A05 [] 0) = .ok (.ldImm 10 5) := by decide
  have h2 : fetched { start 0x6A05 [] 0 with fault := .stackOverflow } = .ok (.ldImm 10 5) := by decide
  exact ⟨fun _ _ h => (by rw [h1] at h; cases h), fun _ _ h => (by rw [h2] at h; cases h), _, rfl⟩
/-- FinishedMachineOnlyCountsDown: a self-jump (C2). -/
theorem witness_finished : Finished (start 0x1200 [] 0) := by unfold Finished; decide
/-- LoadCopiesTheProgram: reset memory, a program longer than `PROG_MAX`, its last byte that is copied, and an address above. -/
theorem witness_load : State.reset.mem.wf = true ∧ 3583 < (List.replicate 4096 (0 : Byte)).length ∧
    (∀ k, k < (List.replicate 4096 (0 : Byte)).length → k < 3584 → 0x1FF ≠ 0x200 + k) := by
  exact ⟨rfl, by rw [List.length_replicate]; omega, fun k _ _ => by omega⟩

/-- RetPopsIntoThePc, the clause of the full stack; the other is the reset state's. -/
theorem witness_ret : State.reset.stack = [] ∧ ({ State.reset with stack := deep 16 }).stack = 0x202 :: deep 15 := by decide
/-- CallPushesTheReturnAddress: depths 15 and 16. -/
theorem witness_call : sp { State.reset with stack := deep 16 } = 16 ∧ sp { State.reset with stack := deep 15 } ≠ 16 := by decide
/-- CallThenReturnResumesAfterTheCall: a call at depth 15, and the RET executed right after it. -/
theorem witness_call_then_return : ∃ s t u : State, sp s < 16 ∧ exec (.call 0x345) s = .next t ∧ u.stack = t.stack :=
  ⟨{ State.reset with stack := deep 15 }, _, _, by decide, rfl, rfl⟩
/-- SkipOnRegister: a low nibble that is not 0; SkipOnKey: the key a register selects. -/
theorem witness_skip : (0xF : Nibble) ≠ 0 ∧ (7 : Fin 16).val = (readV (start 0xE39E [0, 0, 0, 0xF7] 0) 3).toNat % 16 := by decide
/-- AddSetsTheCarry, SubSetsNotBorrow: a destination other than VF, and a register that is neither. -/
theorem witness_flag_registers : (14 : Reg) ≠ 15 ∧ (13 : Reg) ≠ 14 ∧ (13 : Reg) ≠ 15 := by decide
/-- UnimplementedOpcodesFault (third clause). -/
theorem witness_unimplemented : (start 0xF00A [] 0).fault = .none ∧ (start 0xF00A [] 0).pc.toNat ≤ 4094 ∧
    fetched (start 0xF00A [] 0) = .ok (.ldVxK 0) ∧ unimplemented (.ldVxK 0) = true := by decide
/-- StoreDecimalDigits: I + 2 at 4095 and at 4096 (M9, M10). -/
theorem witness_decimal : (start 0xF033 [255] 0xFFD).mem.wf = true ∧ (start 0xF033 [255] 0xFFD).i.toNat + 2 = 4095 ∧
    (start 0xF033 [255] 0xFFE).mem.wf = true ∧ (start 0xF033 [255] 0xFFE).i.toNat + 2 = 4096 := by decide
/-- StoreRegisters, LoadRegisters: I + X at 4095 and at 4096 (M13, M14). -/
theorem witness_block : (start 0xFF55 [] 0xFF0).mem.wf = true ∧ (start 0xFF55 [] 0xFF0).i.toNat + (15 : Reg).val = 4095 ∧
    (start 0xFF55 [] 0xFF1).mem.wf = true ∧ (start 0xFF55 [] 0xFF1).i.toNat + (15 : Reg).val = 4096 := by decide
/-- StoreIsSeenByTheNextFetch, FX55: program P5, which stores over both bytes of the next instruction. -/
theorem witness_self_modifying : (start 0xF155 [0x12, 0x08] 0x202).mem.wf = true ∧
    (start 0xF155 [0x12, 0x08] 0x202).pc.toNat ≤ 4092 ∧ fetched (start 0xF155 [0x12, 0x08] 0x202) = .ok (.stRegs 1) ∧
    ∃ t, stepIn .perStep (start 0xF155 [0x12, 0x08] 0x202) = .next t ∧ (t.fault == .none) = true :=
  ⟨by decide, by decide, by decide, next_of_check (by decide)⟩
/-- StoreIsSeenByTheNextFetch, FX33: digits stored over the second byte of the next instruction and up, at the last pc. -/
theorem witness_self_modifying_digits : ({ startAt 0xF033 0xFFC [234] with i := 0xFFD }).mem.wf = true ∧
    ({ startAt 0xF033 0xFFC [234] with i := 0xFFD }).pc.toNat = 4092 ∧
    fetched { startAt 0xF033 0xFFC [234] with i := 0xFFD } = .ok (.ldBVx 0) ∧
    ∃ t, stepIn .external { startAt 0xF033 0xFFC [234] with i := 0xFFD } = .next t ∧ (t.fault == .none) = true :=
  ⟨by decide, by decide, by decide, next_of_check (by decide)⟩
/-- FX33's digits over the next instruction are what the next step fetches: 0x0304 for 234 stored from `pc + 1` on. -/
theorem test_digits_are_fetched : check (step (start 0xF033 [234] 0x201))
    (fun t => fetchBytes t == [3, 4]) = true := by decide
/-- DrawXorsTheSprite: a sprite flush with the corner (G5), one with a cell under a 1 bit, and the last byte of memory (G14). -/
theorem witness_draw : SpriteInMemory (startMem 0xD011 [56, 31] 0x300 [0xFF]) 1 ∧
    SpriteOnScreen (startMem 0xD011 [56, 31] 0x300 [0xFF]) 0 1 1 ∧
    SpriteOver (startMem 0xD011 [56, 31] 0x300 [0xFF]) 0 1 1 63 31 ∧
    SpriteInMemory (startMem 0xD011 [] 0xFFF [0x80]) 1 :=
  ⟨.inr (by decide), (onScreen_drawTargets ..).mp (by decide), ⟨0, 7, by decide⟩, .inr (by decide)⟩
/-- DrawOutOfBoundsFaults: a source past the end of memory (G15), and a 1 bit at column 64 (G8). -/
theorem witness_draw_fault : ¬ SpriteInMemory (start 0xD012 [] 0xFFF) 2 ∧
    ¬ SpriteOnScreen (startMem 0xD011 [64] 0x300 [0x80]) 0 1 1 :=
  ⟨by unfold SpriteInMemory; decide, fun h => absurd (h 64 0 ⟨0, 0, by decide⟩) (by decide)⟩
/-- DrawTwiceRestoresTheScreen: G2 and then G3. -/
theorem witness_draw_twice : ∃ t : State, (startMem 0xD011 [] 0x300 [0x81]).fault = .none ∧
    exec (.drw 0 1 1) (startMem 0xD011 [] 0x300 [0x81]) = .next t ∧ (t.fault == .none) = true ∧
    ∃ u : State, u.fb = t.fb ∧ u.i = (startMem 0xD011 [] 0x300 [0x81]).i ∧
      readV u 0 = readV (startMem 0xD011 [] 0x300 [0x81]) 0 ∧ readV u 1 = readV (startMem 0xD011 [] 0x300 [0x81]) 1 ∧
      SameMemory (startMem 0xD011 [] 0x300 [0x81]) u := by
  obtain ⟨t, h, hf⟩ := next_of_check (r := exec (.drw 0 1 1) (startMem 0xD011 [] 0x300 [0x81])) (p := fun t => t.fault == .none)
    (by decide)
  exact ⟨t, rfl, h, hf, { startMem 0xD011 [] 0x300 [0x81] with fb := t.fb }, rfl, rfl, rfl, rfl, fun _ => rfl⟩
/-- SetSoundTimer: the outputs cleared, as a step has them when it executes; SetDelayTimer: a sound timer that is not 1. -/
theorem witness_timer_writes : (clearOutputs (start 0xF218 [0, 0, 1] 0)).beep = false ∧ (start 0xF315 [] 0).st ≠ 1 := by decide

end Sys2Proof.Tests
end

section
/-! PROOFS. The family 10_state.md: one inversion of an instruction and of a step that says what each part of the state becomes, and from it the pc classes, the writers of the state, the timers and the invariant of R43. -/

namespace Sys2Proof.Machine

/-! ### Values of the operand forms -/

/-- `zext_16(NNN)` is the number `NNN` (R73). -/
@[simp] theorem addrWord_toNat (nnn : Addr12) : (addrWord nnn).toNat = nnn.toNat := by
  have := nnn.isLt
  simp only [addrWord, BitVec.toNat_setWidth]
  omega

/-- An immediate address is an address of memory (R71). -/
theorem addr12_toNat_le (nnn : Addr12) : nnn.toNat ≤ 4095 := Nat.le_of_lt_succ nnn.isLt

/-- The target of BNNN is the exact sum: it never reaches 2^16 (R104). -/
@[simp] theorem indexedTarget_toNat (v0 : Byte) (nnn : Addr12) :
    (indexedTarget v0 nnn).toNat = v0.toNat + nnn.toNat := by
  have h0 := v0.isLt
  have h1 := nnn.isLt
  simp only [indexedTarget, BitVec.toNat_add, addrWord_toNat, BitVec.toNat_setWidth]
  omega

/-- The address of a glyph, as a number: sixteen glyphs of five bytes never reach 2^16 (R143). -/
theorem glyphAddress_toNat (b : Byte) : (glyphAddress b).toNat = 5 * (lowNibble b).val := by
  have := (lowNibble b).isLt
  rw [glyphAddress, BitVec.toNat_ofNat, Config.glyphBytes, Nat.mod_eq_of_lt (by omega)]

/-- A glyph address is an address of memory (R143). -/
theorem glyphAddress_toNat_le (b : Byte) : (glyphAddress b).toNat ≤ 4095 := by
  have := (lowNibble b).isLt
  rw [glyphAddress_toNat]
  omega

@[simp] theorem decimalDigits_length (b : Byte) : (decimalDigits b).length = 3 := rfl

@[simp] theorem readV_stack_update (s : State) (ws : List Word) (r : Reg) :
    readV { s with stack := ws } r = readV s r := rfl

/-! ### What an instruction can do -/

/-- How a completed instruction of a class of R26's table has moved the pc from `s` to `t`. -/
def PcAfter (s t : State) : PcClass → Prop
  | .straightLine => t.pc = s.pc + 2
  | .skip holds => t.pc = if holds then s.pc + 4 else s.pc + 2
  | .absolute nnn => t.pc.toNat = nnn.toNat
  | .indexed nnn => t.pc.toNat = (readV s 0).toNat + nnn.toNat
  | .popped => s.stack.head? = some t.pc
  | .fault => False

/-- What an instruction that takes no fault does to each part of the state (R41): the part is as before, or the instruction
is one of its writers and the new value is as that writer's rule says. The tick is not in it. -/
structure Completed (i : Instr) (s t : State) : Prop where
  fault : t.fault = s.fault
  key : t.key = s.key
  pc : PcAfter s t (pcClass s i)
  regs : ∀ r, writesReg i r = false → readV t r = readV s r
  mem : t.mem = s.mem ∨ (∃ x, i = .ldBVx x ∨ i = .stRegs x) ∧
    ∃ a bs, a + bs.length ≤ Config.memSize ∧ t.mem = storeBytes s.mem a bs
  index : t.i = s.i ∨ ((∃ nnn, i = .ldI nnn) ∨ ∃ x, i = .ldFVx x) ∧ t.i.toNat ≤ 4095
  stack : t.stack = s.stack ∨ ((∃ nnn, i = .call nnn) ∧ sp s ≠ 16 ∧ t.stack = (s.pc + 2) :: s.stack) ∨
    (i = .ret ∧ ∃ w, s.stack = w :: t.stack)
  fb : t.fb = s.fb ∨ i = .cls ∨ ∃ x y n, i = .drw x y n
  dt : t.dt = s.dt ∨ ∃ x, i = .ldDtVx x
  st : t.st = s.st ∨ ∃ x, i = .ldStVx x

/-- Two next states the same instruction answers are one. -/
theorem exec_next_unique {i : Instr} {s t u : State} (ht : exec i s = .next t) (hu : exec i s = .next u) : t = u :=
  Host.Outcome.next.inj (ht.symm.trans hu)

/-- FX33 and FX55 past their extent check complete: a block of bytes stored at I inside memory (R144, R146). -/
theorem Completed.of_store {i : Instr} {x : Reg} {s : State} {bs : List Byte} (hi : i = .ldBVx x ∨ i = .stRegs x)
    (hb : s.i.toNat + bs.length ≤ Config.memSize) : Completed i s (advance (writeMem s.i.toNat bs s)) := by
  constructor
  case mem => exact .inr ⟨⟨x, hi⟩, s.i.toNat, bs, hb, rfl⟩
  case pc => rcases hi with rfl | rfl <;> rfl
  all_goals simp

/-- Every instruction that answers takes a fault and changes nothing else (R176), or completes as its row says. -/
theorem exec_cases {i : Instr} {s t : State} (h : exec i s = .next t) :
    (∃ f, f ≠ .none ∧ t = faulted f s) ∨ Completed i s t := by
  cases i
  case ret =>
    rcases execRet_cases s with ⟨-, he⟩ | ⟨w, rest, hs, he⟩ <;> obtain rfl := exec_next_unique (i := .ret) h he
    · exact .inl ⟨.stackUnderflow, nofun, rfl⟩
    · right; constructor <;> simp [PcAfter, pcClass, hs]
  case call nnn =>
    rcases execCall_cases nnn s with ⟨-, he⟩ | ⟨hs, he⟩ <;> obtain rfl := exec_next_unique (i := .call nnn) h he
    · exact .inl ⟨.stackOverflow, nofun, rfl⟩
    · right; constructor <;> simp [PcAfter, pcClass, hs]
  case ldBVx x =>
    rcases execLdBVx_cases x s with ⟨hb, he⟩ | ⟨-, he⟩ <;> obtain rfl := exec_next_unique (i := .ldBVx x) h he
    · exact .inr (.of_store (.inl rfl) (by rw [decimalDigits_length, Config.memSize]; omega))
    · exact .inl ⟨.outOfBoundsMemoryAccess, nofun, rfl⟩
  case stRegs x =>
    rcases execStRegs_cases x s with ⟨hb, he⟩ | ⟨-, he⟩ <;> obtain rfl := exec_next_unique (i := .stRegs x) h he
    · exact .inr (.of_store (.inr rfl) (by rw [regsUpTo_length, Config.memSize]; omega))
    · exact .inl ⟨.outOfBoundsMemoryAccess, nofun, rfl⟩
  case ldRegs x =>
    rcases execLdRegs_cases x s with ⟨-, he⟩ | ⟨-, he⟩ <;> obtain rfl := exec_next_unique (i := .ldRegs x) h he
    · right; constructor <;> simp +contextual [PcAfter, pcClass, writesReg]
    · exact .inl ⟨.outOfBoundsMemoryAccess, nofun, rfl⟩
  case drw x y n =>
    rcases execDrw_cases x y n s with ⟨-, -, he⟩ | ⟨-, he⟩ <;> obtain rfl := exec_next_unique (i := .drw x y n) h he
    · right; constructor <;> simp +contextual [PcAfter, pcClass, writesReg, drawn]
    · exact .inl ⟨.outOfBoundsMemoryAccess, nofun, rfl⟩
  case shr | subn | shl | ldVxK | addIVx => cases h; exact .inl ⟨.unsupportedOpcode, nofun, rfl⟩
  -- The rows left have no check of their own: each is one chain of updates of the state.
  all_goals
    cases h; right; constructor <;>
      simp +contextual [PcAfter, pcClass, writesReg, addr12_toNat_le, glyphAddress_toNat_le]

/-- Clearing the outputs first is no part of what `Completed` speaks of (R90). -/
theorem completed_clearOutputs {i : Instr} {s t : State} : Completed i (clearOutputs s) t ↔ Completed i s t := by
  constructor <;> rintro ⟨hf, hk, hpc, hr, hm, hi, hs, hfb, hdt, hst⟩ <;> exact ⟨hf, hk, hpc, hr, hm, hi, hs, hfb, hdt, hst⟩

/-- The inversion of a step: it starts unfaulted, and either takes a fault, or completes the fetched instruction and then
ticks as the mode says. -/
theorem step_effect {mode : TimerMode} {s t : State} (h : stepIn mode s = .next t) : s.fault = .none ∧
    ((∃ f, f ≠ .none ∧ t = faulted f s) ∨
      ∃ i u, s.pc.toNat ≤ 4094 ∧ fetched s = .ok i ∧ Completed i s u ∧ t = afterExecute mode u) := by
  obtain ⟨hs, ⟨-, ht⟩ | ⟨-, -, ht⟩ | ⟨i, u, hpc, hi, he, ht⟩⟩ := step_cases h
  · exact ⟨hs, .inl ⟨.outOfBoundsMemoryAccess, nofun, ht⟩⟩
  · exact ⟨hs, .inl ⟨.unsupportedOpcode, nofun, ht⟩⟩
  · obtain ⟨f, hf, rfl⟩ | hc := exec_cases he
    · refine ⟨hs, .inl ⟨f, hf, ht.trans ?_⟩⟩
      exact if_neg hf
    · exact ⟨hs, .inr ⟨i, u, hpc, hi, completed_clearOutputs.mp hc, ht⟩⟩

/-! ### Who writes what -/

/-- Settles O17: a fault changes no pc, and a completed instruction moves it as its class says. -/
theorem pcAfterEachClassOfInstruction : Obligations.PcAfterEachClassOfInstruction := by
  intro i s t hs h
  obtain ⟨f, hf, rfl⟩ | hc := exec_cases h
  · exact ⟨fun _ => rfl, fun hn => absurd hn hf⟩
  · refine ⟨fun hn => absurd (hc.fault.trans hs) hn, fun _ => ?_⟩
    exact hc.pc

/-- Settles O18: a register the fetched instruction does not list reads as before, and the tick touches none. -/
theorem registersChangeOnlyWhereListed : Obligations.RegistersChangeOnlyWhereListed := by
  intro mode s t h r hr
  obtain ⟨-, ⟨f, -, rfl⟩ | ⟨i, u, -, hi, hc, rfl⟩⟩ := step_effect h
  · exact absurd rfl hr
  · refine ⟨i, hi, ?_⟩
    by_contra hw
    rw [readV_congr (afterExecute_v mode u)] at hr
    exact hr (hc.regs r (by simpa using hw))

/-- Settles O19: a changed part of the state leaves only its writers among the instructions. -/
theorem stateChangesOnlyByItsWriters : Obligations.StateChangesOnlyByItsWriters := by
  intro mode s t h
  obtain ⟨hs, ⟨f, -, rfl⟩ | ⟨i, u, -, hi, hc, rfl⟩⟩ := step_effect h
  · simp [hs]
  · simp only [hi, Except.ok.injEq, afterExecute_mem, afterExecute_i, afterExecute_stack, afterExecute_fb, afterExecute_key]
    refine ⟨fun hn => ?_, fun hn => ?_, fun hn => ?_, fun hn => hc.fb.resolve_left hn, hc.key, hs⟩
    · exact (hc.mem.resolve_left hn).1
    · exact (hc.index.resolve_left hn).1
    · exact (hc.stack.resolve_left hn).imp And.left And.left

/-! ### Timers -/

/-- An unfaulted step under `PerStep` ends with the tick (R94, R99). -/
theorem afterExecute_perStep {u : State} (hu : u.fault = .none) : afterExecute .perStep u = tick u := if_pos hu

theorem afterExecute_dt_le (mode : TimerMode) (u : State) : (afterExecute mode u).dt.toNat ≤ u.dt.toNat := by
  rcases afterExecute_cases mode u with h | ⟨-, -, h⟩
  · rw [h]
  · rw [h, tick_dt, decTimer_toNat]
    exact Nat.sub_le ..

theorem afterExecute_st_le (mode : TimerMode) (u : State) : (afterExecute mode u).st.toNat ≤ u.st.toNat := by
  rcases afterExecute_cases mode u with h | ⟨-, -, h⟩
  · rw [h]
  · rw [h, tick_st, decTimer_toNat]
    exact Nat.sub_le ..

/-- Settles O20: before the tick only its writer moves a timer, and the tick never raises one. -/
theorem timersRiseOnlyByTheirWriters : Obligations.TimersRiseOnlyByTheirWriters := by
  intro mode s t h
  obtain ⟨hs, ⟨f, hf, rfl⟩ | ⟨i, u, -, hi, hc, rfl⟩⟩ := step_effect h
  · simp [hf]
  · have hdt := afterExecute_dt_le mode u
    have hst := afterExecute_st_le mode u
    have hu : u.fault = .none := hc.fault.trans hs
    simp only [hi, ne_eq, Except.ok.injEq]
    refine ⟨fun hn => hc.dt.resolve_left fun e => ?_, fun hn => hc.st.resolve_left fun e => ?_, ?_, ?_⟩
    · rw [e] at hdt; omega
    · rw [e] at hst; omega
    · rintro rfl - hn
      rw [afterExecute_perStep hu, tick_dt, decTimer_toNat, hc.dt.resolve_right (not_exists.mpr hn)]
    · rintro rfl - hn
      rw [afterExecute_perStep hu, tick_st, decTimer_toNat, hc.st.resolve_right (not_exists.mpr hn)]

/-! ### The invariant of R43 -/

/-- Settles O13: the fields of the reset state one by one (R200). -/
theorem resetMeetsTheInvariant : Obligations.ResetMeetsTheInvariant := by
  exact ⟨reset_mem_wf, Nat.zero_le _, by decide, Nat.zero_le _, List.forall_mem_nil _⟩

/-- The invariant reads only memory, I, the pc and the stack. -/
theorem stateInv_congr {s t : State} (hm : t.mem = s.mem) (hi : t.i = s.i) (hpc : t.pc = s.pc) (hs : t.stack = s.stack) :
    StateInv t ↔ StateInv s := by
  simp only [StateInv, sp, hm, hi, hpc, hs]

/-- Taking a fault keeps the invariant (R176). -/
theorem stateInv_faulted {f : FaultCode} {s : State} : StateInv (faulted f s) ↔ StateInv s := stateInv_congr rfl rfl rfl rfl

theorem stateInv_afterExecute {mode : TimerMode} {u : State} : StateInv (afterExecute mode u) ↔ StateInv u :=
  stateInv_congr (afterExecute_mem ..) (afterExecute_i ..) (afterExecute_pc ..) (afterExecute_stack ..)

/-! ### A completed instruction keeps each clause of the invariant -/

namespace Completed

variable {i : Instr} {s t : State}

theorem mem_wf (hc : Completed i s t) (hs : s.mem.wf = true) : t.mem.wf = true := by
  obtain he | ⟨-, a, bs, hb, he⟩ := hc.mem <;> rw [he]
  · exact hs
  · exact storeBytes_wf hs bs hb

theorem index_le (hc : Completed i s t) (hs : s.i.toNat ≤ 4095) : t.i.toNat ≤ 4095 := by
  obtain he | ⟨-, hle⟩ := hc.index
  · rwa [he]
  · exact hle

theorem sp_le (hc : Completed i s t) (hs : sp s ≤ 16) : sp t ≤ 16 := by
  simp only [sp] at hs ⊢
  obtain he | ⟨-, hne, he⟩ | ⟨-, w, he⟩ := hc.stack
  · rwa [he]
  · rw [he, List.length_cons]
    exact Nat.lt_of_le_of_ne hs hne
  · rw [he, List.length_cons] at hs
    omega

/-- A call pushes `pc + 2`, which a fetch at 4094 or below keeps in 2 to 4096 (R29, R91). -/
theorem stack_entry_range (hc : Completed i s t) (hpc : s.pc.toNat ≤ 4094)
    (hs : ∀ w ∈ s.stack, 2 ≤ w.toNat ∧ w.toNat ≤ 4096) : ∀ w ∈ t.stack, 2 ≤ w.toNat ∧ w.toNat ≤ 4096 := by
  obtain he | ⟨-, -, he⟩ | ⟨-, w, he⟩ := hc.stack
  · rwa [he]
  · rw [he, List.forall_mem_cons]
    refine ⟨?_, hs⟩
    bv_omega
  · rw [he, List.forall_mem_cons] at hs
    exact hs.2

/-- The largest pc is BNNN's, 255 + 4095 (R27); a popped pc is a live entry. -/
theorem pc_le (hc : Completed i s t) (hpc : s.pc.toNat ≤ 4094) (hs : ∀ w ∈ s.stack, 2 ≤ w.toNat ∧ w.toNat ≤ 4096) :
    t.pc.toNat ≤ 4350 := by
  have hp := hc.pc
  cases hcl : pcClass s i <;> rw [hcl] at hp <;> simp only [PcAfter] at hp
  case straightLine => bv_omega
  case skip holds => split at hp <;> bv_omega
  case absolute nnn => have := nnn.isLt; omega
  case indexed nnn =>
    have h0 := (readV s 0).isLt
    have h1 := nnn.isLt
    omega
  case popped =>
    have := hs _ (List.mem_of_head? hp)
    omega

theorem stateInv (hc : Completed i s t) (hpc : s.pc.toNat ≤ 4094) (h : StateInv s) : StateInv t := by
  obtain ⟨hmem, hi, -, hsp, hstack⟩ := h
  exact ⟨hc.mem_wf hmem, hc.index_le hi, hc.pc_le hpc hstack, hc.sp_le hsp, hc.stack_entry_range hpc hstack⟩

end Completed

/-- Settles O14: a fault and the tick touch nothing the invariant reads, and a completed instruction keeps it clause by
clause. -/
theorem stepKeepsTheInvariant : Obligations.StepKeepsTheInvariant := by
  intro mode s t hs h
  obtain ⟨-, ⟨f, -, rfl⟩ | ⟨i, u, hpc, -, hc, rfl⟩⟩ := step_effect h
  · exact stateInv_faulted.mpr hs
  · exact stateInv_afterExecute.mpr (hc.stateInv hpc hs)

theorem stateInv_writeMem {s : State} (h : StateInv s) {a : Nat} {bs : List Byte} (hb : a + bs.length ≤ Config.memSize) :
    StateInv (writeMem a bs s) := by
  obtain ⟨hmem, hrest⟩ := h
  exact ⟨storeBytes_wf hmem bs hb, hrest⟩

/-- `init()` with any font gives a state that meets the invariant (R200). -/
theorem stateInv_initWith (font : Vector Byte 80) (old : State) : StateInv (initWith font old) :=
  stateInv_writeMem resetMeetsTheInvariant (by simp [Config.memSize])

theorem stateInv_load {s : State} (h : StateInv s) (bytes : List Byte) : StateInv (load bytes s) :=
  stateInv_writeMem h (by simp only [Config.progBase, Config.progMax, Config.memSize, List.length_take]; omega)

/-- Settles O15, by induction on how the state is reached: the launch state meets the invariant, a step keeps it (O14), and
the host's other operations touch nothing it reads. -/
theorem reachableStatesMeetTheInvariant : Obligations.ReachableStatesMeetTheInvariant := by
  intro mode s h
  induction h with
  | launch font bytes old => exact stateInv_load (stateInv_initWith font old) bytes
  | step s t _ hst ih => exact stepKeepsTheInvariant mode s t ih hst
  | keyDown k s _ ih => exact ih
  | keyUp k s _ ih => exact ih
  | tick s _ _ ih => exact ih

end Sys2Proof.Machine
end

section
/-! PROOFS. The family 20_memory.md: the canonical form of memory is unique, and what an instruction stores over the next
instruction is what the next fetch reads. -/

namespace Sys2Proof.Machine

/-! ### The canonical form is unique -/

/-- What the canonical form asks of a listed entry and of the entries after it (log 5). -/
theorem memWfFrom_cons {lo k : Nat} {b : Byte} {m : Memory} :
    memWfFrom lo ((k, b) :: m) = true ↔
      lo ≤ k ∧ k < Config.memSize ∧ b ≠ resetByte k ∧ memWfFrom (k + 1) m = true := by
  simp [memWfFrom, and_assoc]

/-- A canonical list is canonical from its own first address on. -/
theorem memWfFrom_head {lo k : Nat} {b : Byte} {m : Memory} (h : memWfFrom lo ((k, b) :: m) = true) :
    memWfFrom k ((k, b) :: m) = true := by
  rw [memWfFrom_cons] at h ⊢
  exact ⟨le_rfl, h.2⟩

/-- The first listed address reads otherwise than after reset, so no memory that reads the same is canonical from a later
address on. -/
theorem memWfFrom_le_head {lo lo' k : Nat} {b : Byte} {m m' : Memory} (hm : memWfFrom lo ((k, b) :: m) = true)
    (hm' : memWfFrom lo' m' = true) (h : ∀ a, memRead ((k, b) :: m) a = memRead m' a) : lo' ≤ k := by
  obtain ⟨-, -, hb, -⟩ := memWfFrom_cons.mp hm
  by_contra hlt
  apply hb
  calc b = memRead ((k, b) :: m) k := (if_pos rfl).symm
    _ = memRead m' k := h k
    _ = resetByte k := memRead_below hm' (Nat.lt_of_not_le hlt)

/-- Behind a shared first address, canonical tails read the same everywhere: up to that address both read as after reset. -/
theorem memRead_tail_congr {k : Nat} {b b' : Byte} {m m' : Memory} (hm : memWfFrom (k + 1) m = true)
    (hm' : memWfFrom (k + 1) m' = true) (h : ∀ a, memRead ((k, b) :: m) a = memRead ((k, b') :: m') a) (a : Nat) :
    memRead m a = memRead m' a := by
  by_cases ha : a < k + 1
  · rw [memRead_below hm ha, memRead_below hm' ha]
  · have hne : k ≠ a := by omega
    simpa [memRead, hne] using h a

/-- Canonical memories that read the same everywhere are one list: neither first address can come before the other. -/
theorem memWfFrom_ext {lo : Nat} {m m' : Memory} (hm : memWfFrom lo m = true) (hm' : memWfFrom lo m' = true)
    (h : ∀ a, memRead m a = memRead m' a) : m = m' := by
  induction m generalizing lo m' with
  | nil =>
    cases m' with
    | nil => rfl
    | cons e m' => exact absurd (memWfFrom_le_head (lo' := e.1 + 1) hm' rfl fun a => (h a).symm) (by omega)
  | cons e m ih =>
    obtain ⟨k, b⟩ := e
    cases m' with
    | nil => exact absurd (memWfFrom_le_head (lo' := k + 1) hm rfl h) (by omega)
    | cons e' m' =>
      obtain ⟨k', b'⟩ := e'
      obtain rfl : k = k' := Nat.le_antisymm (memWfFrom_le_head hm' (memWfFrom_head hm) fun a => (h a).symm)
        (memWfFrom_le_head hm (memWfFrom_head hm') h)
      obtain rfl : b = b' := by simpa [memRead] using h k
      obtain ⟨-, -, -, ht⟩ := memWfFrom_cons.mp hm
      obtain ⟨-, -, -, ht'⟩ := memWfFrom_cons.mp hm'
      rw [ih ht ht' (memRead_tail_congr ht ht' h)]

/-- Settles O16: the canonical form of the whole memory is the canonical form from address 0 on. -/
theorem canonicalMemoryIsDeterminedByItsBytes : Obligations.CanonicalMemoryIsDeterminedByItsBytes := by
  intro m m' hm hm' h
  exact memWfFrom_ext hm hm' h

/-! ### A store and the fetch after it -/

/-- The tick is not seen by a fetch (R94). -/
@[simp] theorem fetchBytes_afterExecute (mode : TimerMode) (u : State) :
    fetchBytes (afterExecute mode u) = fetchBytes u := by
  simp only [fetchBytes, afterExecute_mem, afterExecute_pc]

/-- A step that completes has run the fetched instruction without a fault, and then ticked as the mode says. -/
theorem exec_of_completing_step {mode : TimerMode} {s t : State} {i : Instr} (h : stepIn mode s = .next t)
    (hf : t.fault = .none) (hi : fetched s = .ok i) :
    ∃ u, exec i (clearOutputs s) = .next u ∧ u.fault = .none ∧ t = afterExecute mode u := by
  obtain ⟨-, ⟨-, rfl⟩ | ⟨-, -, rfl⟩ | ⟨j, u, -, hj, he, rfl⟩⟩ := step_cases h
  · cases hf
  · cases hf
  · obtain rfl : i = j := Except.ok.inj (hi.symm.trans hj)
    exact ⟨u, he, (afterExecute_fault mode u).symm.trans hf, rfl⟩

/-- After a straight-line advance the two bytes at `pc + 2` are fetched, provided the sum does not wrap (R26, R91). -/
theorem fetchBytes_advance {s : State} (hpc : s.pc.toNat ≤ 4092) :
    fetchBytes (advance s) = [readMem s (s.pc.toNat + 2), readMem s (s.pc.toNat + 3)] := by
  have hnext : (s.pc + 2).toNat = s.pc.toNat + 2 := by bv_omega
  simp only [fetchBytes, advance_pc, hnext, loadBytes]
  rfl

/-- The fetch after an FX55 that completed reads what it stored (R65, R146). -/
theorem fetchBytes_of_exec_stRegs {x : Reg} {s t : State} (hw : s.mem.wf = true) (hpc : s.pc.toNat ≤ 4092)
    (h : exec (.stRegs x) s = .next t) (hf : t.fault = .none) :
    fetchBytes t = [byteAfterRegs x s (s.pc.toNat + 2), byteAfterRegs x s (s.pc.toNat + 3)] := by
  rcases execStRegs_cases x s with ⟨hb, he⟩ | ⟨-, he⟩ <;> obtain rfl := exec_next_unique (i := .stRegs x) h he
  · rw [fetchBytes_advance (by exact hpc), readMem_storedRegs hw hb, readMem_storedRegs hw hb, writeMem_pc]
  · cases hf

/-- The fetch after an FX33 that completed reads the digits it stored (R65, R144). -/
theorem fetchBytes_of_exec_ldBVx {x : Reg} {s t : State} (hw : s.mem.wf = true) (hpc : s.pc.toNat ≤ 4092)
    (h : exec (.ldBVx x) s = .next t) (hf : t.fault = .none) :
    fetchBytes t = [byteAfterDigits x s (s.pc.toNat + 2), byteAfterDigits x s (s.pc.toNat + 3)] := by
  rcases execLdBVx_cases x s with ⟨hb, he⟩ | ⟨-, he⟩ <;> obtain rfl := exec_next_unique (i := .ldBVx x) h he
  · rw [fetchBytes_advance (by exact hpc), readMem_storedDigits hw hb, readMem_storedDigits hw hb, writeMem_pc]
  · cases hf

/-- Settles O49: the step ran the store on the state with its outputs cleared, which neither the store nor the fetch reads,
and the tick after it touches neither memory nor the pc. -/
theorem storeIsSeenByTheNextFetch : Obligations.StoreIsSeenByTheNextFetch := by
  intro mode x s t hw hpc h hf
  refine ⟨fun hi => ?_, fun hi => ?_⟩
  · obtain ⟨u, he, hu, rfl⟩ := exec_of_completing_step h hf hi
    rw [fetchBytes_afterExecute]
    exact fetchBytes_of_exec_stRegs (s := clearOutputs s) hw hpc he hu
  · obtain ⟨u, he, hu, rfl⟩ := exec_of_completing_step h hf hi
    rw [fetchBytes_afterExecute]
    exact fetchBytes_of_exec_ldBVx (s := clearOutputs s) hw hpc he hu

end Sys2Proof.Machine
end

section
/-! PROOFS. The family 30_encoding.md: the two round trips between instructions and words, the decoder against the
opcode map of R76, and the illegal words of R77. -/

namespace Sys2Proof

/-- Settles O1: each word is fixed, so the decoder computes. -/
theorem listedWordsDecodeAsListed : Obligations.ListedWordsDecodeAsListed := by
  unfold Obligations.ListedWordsDecodeAsListed
  decide

/-! ### Decode after encode -/

/-- The decoder reads back, through the fields of each format, what the encoder wrote (R72, R76). -/
theorem decode_encode (i : Instr) : decode (encode i) = .ok i := by
  cases i
  case cls | ret => rfl
  case ldReg | orReg | andReg | xorReg | addReg | subReg | shr | subn | shl => simp [encode, decode, decodeFamily8]
  case skp | sknp => simp [encode, decode, decodeFamilyE]
  case ldVxDt | ldVxK | ldDtVx | ldStVx | addIVx | ldFVx | ldBVx | stRegs | ldRegs =>
    simp [encode, decode, decodeFamilyF]
  all_goals simp [encode, decode]

/-- Settles O2: the two bytes form the encoded word again, which decodes to the instruction. -/
theorem decodeOfEncodeIsTheInstruction : Obligations.DecodeOfEncodeIsTheInstruction := by
  intro i
  rw [encodeBytes, decodeBytes_bytesOfWord, decode_encode]

/-! ### Encode after decode: a word is rebuilt from its fixed fields and the operands read from it -/

theorem wordA_of_family {w : Word} {f : Nibble} (hf : fieldF w = f) : wordA f (fieldNNN w) = w := by
  rw [← hf, wordA_fields]

theorem wordXI_of_family {w : Word} {f : Nibble} (hf : fieldF w = f) : wordXI f (fieldX w) (fieldNN w) = w := by
  rw [← hf, wordXI_fields]

theorem wordXY_of_family {w : Word} {f : Nibble} (hf : fieldF w = f) :
    wordXY f (fieldX w) (fieldY w) (fieldN w) = w := by
  rw [← hf, wordXY_fields]

/-- Format `XK`: the low byte is fixed. -/
theorem wordXI_of_fixed {w : Word} {f : Nibble} {kk : Byte} (hf : fieldF w = f) (hk : fieldNN w = kk) :
    wordXI f (fieldX w) kk = w := by
  rw [← hk, wordXI_of_family hf]

/-- Format `XY`: the low nibble is fixed. -/
theorem wordXY_of_fixed {w : Word} {f k : Nibble} (hf : fieldF w = f) (hk : fieldN w = k) :
    wordXY f (fieldX w) (fieldY w) k = w := by
  rw [← hk, wordXY_of_family hf]

/-- Within a family the low 12 bits decide the word. -/
theorem eq_wordA_iff {w : Word} {f : Nibble} (hf : fieldF w = f) (nnn : Addr12) :
    w = wordA f nnn ↔ fieldNNN w = nnn := by
  constructor
  · rintro rfl; exact fieldNNN_wordA f nnn
  · rintro rfl; exact (wordA_of_family hf).symm

theorem encode_of_decodeFamily0 {w : Word} {i : Instr} (hf : fieldF w = 0) (h : decodeFamily0 w = .ok i) :
    encode i = w := by
  unfold decodeFamily0 at h
  split_ifs at h with h0 hE <;> cases h
  · exact ((eq_wordA_iff hf _).mpr h0).symm
  · exact ((eq_wordA_iff hf _).mpr hE).symm

theorem encode_of_decodeFamily8 {w : Word} {i : Instr} (hf : fieldF w = 8) (h : decodeFamily8 w = .ok i) :
    encode i = w := by
  unfold decodeFamily8 at h
  split at h <;> cases h <;> exact wordXY_of_fixed hf ‹_›

theorem encode_of_decodeFamilyE {w : Word} {i : Instr} (hf : fieldF w = 0xE) (h : decodeFamilyE w = .ok i) :
    encode i = w := by
  unfold decodeFamilyE at h
  split at h <;> cases h <;> exact wordXI_of_fixed hf ‹_›

theorem encode_of_decodeFamilyF {w : Word} {i : Instr} (hf : fieldF w = 0xF) (h : decodeFamilyF w = .ok i) :
    encode i = w := by
  unfold decodeFamilyF at h
  split at h <;> cases h <;> exact wordXI_of_fixed hf ‹_›

/-- Settles O3: the arm the decoder took gives the fixed fields of the word, and the operands are its other fields. -/
theorem encodeOfDecodeIsTheWord : Obligations.EncodeOfDecodeIsTheWord := by
  intro w i h
  unfold decode at h
  split at h
  case h_1 hf => exact encode_of_decodeFamily0 hf h
  case h_9 hf => exact encode_of_decodeFamily8 hf h
  case h_15 hf => exact encode_of_decodeFamilyE hf h
  case h_16 =>
    have hf : fieldF w = 0xF := by simp only [imp_false] at *; bv_omega
    exact encode_of_decodeFamilyF hf h
  case h_2 hf | h_3 hf | h_11 hf | h_12 hf => cases h; exact wordA_of_family hf
  case h_4 hf | h_5 hf | h_7 hf | h_8 hf | h_13 hf => cases h; exact wordXI_of_family hf
  case h_6 hf | h_10 hf => split at h <;> cases h; exact wordXY_of_fixed hf ‹_›
  case h_14 hf => cases h; exact wordXY_of_family hf

/-! ### The opcode map -/

theorem row_mem_opcodeRows (i : Instr) : i.row ∈ opcodeRows := by
  cases i <;> exact List.contains_iff_mem.mp rfl

/-- No row of the map is without an instruction: the one that the row's fixed digits spell with every operand 0. -/
theorem exists_row_eq {r : Row} (hr : r ∈ opcodeRows) : ∃ i : Instr, i.row = r := by
  have h : ∀ r ∈ opcodeRows, (decode r.value).toOption.map Instr.row = some r := by decide
  obtain ⟨i, -, hi⟩ := Option.map_eq_some_iff.mp (h r hr)
  exact ⟨i, hi⟩

/-- The mask of an instruction's row keeps exactly the digits the encoder fixes (R76). -/
theorem encode_covered (i : Instr) : encode i &&& i.row.mask = i.row.value := by
  cases i
  case cls | ret => rfl
  case jp | call | ldI | jpV0 | seImm | sneImm | ldImm | addImm | rnd | drw =>
    refine (and_F000 _).trans ?_
    simp only [encode, fieldF_wordA, fieldF_wordXI, fieldF_wordXY]; rfl
  case skp | sknp | ldVxDt | ldVxK | ldDtVx | ldStVx | addIVx | ldFVx | ldBVx | stRegs | ldRegs =>
    refine (and_F0FF _).trans ?_
    simp only [encode, fieldF_wordXI, fieldNN_wordXI]; rfl
  all_goals
    refine (and_F00F _).trans ?_
    simp only [encode, fieldF_wordXY, fieldN_wordXY]; rfl

theorem covered_of_decode {w : Word} {i : Instr} (h : decode w = .ok i) : w &&& i.row.mask = i.row.value := by
  rw [← encodeOfDecodeIsTheWord w i h, encode_covered]

/-! Words that agree under a mask of R76 have the same secondary key. -/

theorem fieldF_eq_of_and_F000 {w v : Word} (h : w &&& 0xF000#16 = v &&& 0xF000#16) : fieldF w = fieldF v := by
  rw [and_F000, and_F000] at h
  simpa using congrArg fieldF h

theorem fields_eq_of_and_F00F {w v : Word} (h : w &&& 0xF00F#16 = v &&& 0xF00F#16) :
    fieldF w = fieldF v ∧ fieldN w = fieldN v := by
  rw [and_F00F, and_F00F] at h
  exact ⟨by simpa using congrArg fieldF h, by simpa using congrArg fieldN h⟩

theorem fields_eq_of_and_F0FF {w v : Word} (h : w &&& 0xF0FF#16 = v &&& 0xF0FF#16) :
    fieldF w = fieldF v ∧ fieldNN w = fieldNN v := by
  rw [and_F0FF, and_F0FF] at h
  exact ⟨by simpa using congrArg fieldF h, by simpa using congrArg fieldNN h⟩

/-- A word that matches the row of `i` has the fixed fields of `encode i`, so the decoder takes the arm of `i`. -/
theorem decode_of_covered {w : Word} (i : Instr) (h : w &&& i.row.mask = i.row.value) :
    ∃ j, decode w = .ok j ∧ j.row = i.row := by
  replace h : w &&& i.row.mask = encode i &&& i.row.mask := h.trans (encode_covered i).symm
  cases i
  case cls | ret =>
    obtain rfl : w = _ := (and_FFFF w).symm.trans h
    exact ⟨_, rfl, rfl⟩
  case jp | call | ldI | jpV0 | seImm | sneImm | ldImm | addImm | rnd | drw =>
    simp [decode, fieldF_eq_of_and_F000 h, encode, Instr.row]
  case skp | sknp | ldVxDt | ldVxK | ldDtVx | ldStVx | addIVx | ldFVx | ldBVx | stRegs | ldRegs =>
    obtain ⟨hf, hk⟩ := fields_eq_of_and_F0FF h
    simp [decode, decodeFamilyE, decodeFamilyF, hf, hk, encode, Instr.row]
  all_goals
    obtain ⟨hf, hk⟩ := fields_eq_of_and_F00F h
    simp [decode, decodeFamily8, hf, hk, encode, Instr.row]

theorem decode_of_mem_opcodeRows {w : Word} {r : Row} (hr : r ∈ opcodeRows) (h : w &&& r.mask = r.value) :
    ∃ i, decode w = .ok i ∧ i.row = r := by
  obtain ⟨i, rfl⟩ := exists_row_eq hr
  exact decode_of_covered i h

/-- Settles O4: a decoded word is the encoding of its instruction, which that instruction's row covers; a covered word
decodes in its row; and two rows of one word are both the row of what it decodes to. -/
theorem decodeFollowsTheOpcodeMap : Obligations.DecodeFollowsTheOpcodeMap := by
  refine ⟨rfl, fun w i h => ⟨row_mem_opcodeRows i, covered_of_decode h⟩, fun w r => decode_of_mem_opcodeRows, ?_⟩
  intro w r r' hr hr' h h'
  obtain ⟨i, hi, rfl⟩ := decode_of_mem_opcodeRows hr h
  obtain ⟨j, hj, rfl⟩ := decode_of_mem_opcodeRows hr' h'
  rw [Except.ok.inj (hi.symm.trans hj)]

/-! ### The illegal words: the table of R77 speaks of the same fields as the decoder -/

theorem toNat_div_4096 (w : Word) : w.toNat / 4096 = (fieldF w).toNat := by
  have := w.isLt
  simp only [fieldF, BitVec.extractLsb'_toNat, Nat.shiftRight_eq_div_pow]
  omega

theorem toNat_and_000F (w : Word) : (w &&& 0x000F).toNat = (fieldN w).toNat :=
  (BitVec.toNat_and ..).trans (Nat.and_two_pow_sub_one_eq_mod w.toNat 4)

theorem toNat_and_00FF (w : Word) : (w &&& 0x00FF).toNat = (fieldNN w).toNat :=
  (BitVec.toNat_and ..).trans (Nat.and_two_pow_sub_one_eq_mod w.toNat 8)

theorem decodeFamily0_error_iff {w : Word} (hf : fieldF w = 0) :
    (∃ e, decodeFamily0 w = .error e) ↔ w ≠ 0x00E0 ∧ w ≠ 0x00EE := by
  have h0 : w = 0x00E0 ↔ fieldNNN w = 0x0E0 := eq_wordA_iff hf 0x0E0
  have hE : w = 0x00EE ↔ fieldNNN w = 0x0EE := eq_wordA_iff hf 0x0EE
  rw [Ne, Ne, h0, hE, decodeFamily0]
  split_ifs with h1 h2
  · simp [h1]
  · simp [h2]
  · simpa using ⟨h1, h2⟩

theorem decodeFamily8_error_iff (w : Word) : (∃ e, decodeFamily8 w = .error e) ↔
    [0x8, 0x9, 0xA, 0xB, 0xC, 0xD, 0xF].contains (fieldN w).toNat = true := by
  unfold decodeFamily8
  split
  case h_10 =>
    have hk := (fieldN w).isLt
    simp [BitVec.toNat_eq] at *
    omega
  all_goals simp [*]

theorem decodeFamilyE_error_iff (w : Word) : (∃ e, decodeFamilyE w = .error e) ↔
    [0x9E, 0xA1].contains (fieldNN w).toNat = false := by
  unfold decodeFamilyE
  split
  case h_3 => simp_all [BitVec.toNat_eq]
  all_goals simp [*]

theorem decodeFamilyF_error_iff (w : Word) : (∃ e, decodeFamilyF w = .error e) ↔
    [0x07, 0x0A, 0x15, 0x18, 0x1E, 0x29, 0x33, 0x55, 0x65].contains (fieldNN w).toNat = false := by
  unfold decodeFamilyF
  split
  case h_10 => simp_all [BitVec.toNat_eq]
  all_goals simp [*]

/-- The decoder refuses exactly the words of R77's table, family by family. -/
theorem decode_error_iff_wordIllegal (w : Word) : (∃ e, decode w = .error e) ↔ wordIllegal w = true := by
  simp only [wordIllegal, toNat_div_4096, toNat_and_000F, toNat_and_00FF]
  unfold decode
  split
  case h_1 hf => simp [hf, decodeFamily0_error_iff hf]
  case h_6 hf | h_10 hf => split <;> simp_all [BitVec.toNat_eq]
  case h_9 hf => simp only [hf, decodeFamily8_error_iff]; rfl
  case h_15 hf => simp [hf, decodeFamilyE_error_iff]
  case h_16 =>
    have hf : fieldF w = 0xF := by simp only [imp_false] at *; bv_omega
    simp [hf, decodeFamilyF_error_iff]
  all_goals simp [*]

/-- The decoder refuses exactly the words that match no row (R75). -/
theorem decode_error_iff_uncovered (w : Word) :
    (∃ e, decode w = .error e) ↔ ∀ r ∈ opcodeRows, w &&& r.mask ≠ r.value := by
  constructor
  · rintro ⟨e, he⟩ r hr h
    obtain ⟨i, hi, -⟩ := decode_of_mem_opcodeRows hr h
    cases he.symm.trans hi
  · intro h
    cases hd : decode w with
    | error e => exact ⟨e, rfl⟩
    | ok i => exact absurd (covered_of_decode hd) (h _ (row_mem_opcodeRows i))

end Sys2Proof

namespace Sys2Proof.Machine

/-- An unfaulted machine that fetches bytes the decoder refuses takes UnsupportedOpcode (R171). -/
theorem stepIn_of_fetched_error {mode : TimerMode} {s : State} {e : DecodeError} (hf : s.fault = .none)
    (ho : fetchOk s = true) (he : decodeBytes (fetchBytes s) = .error e) :
    stepIn mode s = .next (faulted .unsupportedOpcode s) := by
  rcases stepIn_cases (mode := mode) hf with ⟨h, -⟩ | ⟨-, -, h⟩ | ⟨i, -, h, -⟩
  · cases ho.symm.trans h
  · exact h
  · cases he.symm.trans h

/-- Settles O5: the table and the rows both describe the words the decoder refuses, and a step on such a word faults. -/
theorem illegalWordsAreExactlyTheTable : Obligations.IllegalWordsAreExactlyTheTable := by
  refine ⟨fun w => ?_, decode_error_iff_wordIllegal, ?_⟩
  · rw [← decode_error_iff_wordIllegal, decode_error_iff_uncovered]
  · intro mode s b0 b1 hf ho hb hi
    obtain ⟨e, he⟩ := (decode_error_iff_wordIllegal _).mpr hi
    exact ⟨_, stepIn_of_fetched_error hf ho (by rw [hb, decodeBytes_cons, he]), rfl⟩

end Sys2Proof.Machine
end

section
/-! PROOFS. The family 40_step_cycle.md: what a step does in each of its phases, the tick at its end, its outputs, and that
only a CXNN reads the random input. -/

namespace Sys2Proof.Machine

/-! ### The phases of a step -/

/-- An unfaulted machine whose pc lies above the fetch bound takes OutOfBoundsMemoryAccess (R91). -/
theorem stepIn_of_pc_gt {mode : TimerMode} {s : State} (hf : s.fault = .none) (hpc : s.pc.toNat > 4094) :
    stepIn mode s = .next (faulted .outOfBoundsMemoryAccess s) := by
  have ho : fetchOk s = false := decide_eq_false (Nat.not_le.mpr hpc)
  rcases stepIn_cases (mode := mode) hf with ⟨-, h⟩ | ⟨h, -⟩ | ⟨i, h, -⟩
  · exact h
  · cases ho.symm.trans h
  · cases ho.symm.trans h

/-- The tick phase follows the instruction (R90). -/
theorem runInstr_of_exec {mode : TimerMode} {i : Instr} {s t : State} (h : exec i s = .next t) :
    runInstr mode i s = .next (afterExecute mode t) := by
  rw [runInstr, h]

/-- An unfaulted machine that fetches an instruction runs it on the state with its outputs cleared, and then comes the tick
phase (R90, R93). -/
theorem stepIn_of_exec {mode : TimerMode} {s u : State} {i : Instr} (hf : s.fault = .none) (hpc : s.pc.toNat ≤ 4094)
    (hi : fetched s = .ok i) (hu : exec i (clearOutputs s) = .next u) : stepIn mode s = .next (afterExecute mode u) := by
  have ho : fetchOk s = true := decide_eq_true hpc
  rcases stepIn_cases (mode := mode) hf with ⟨h, -⟩ | ⟨-, ⟨e, he⟩, -⟩ | ⟨j, -, hj, h⟩
  · cases h.symm.trans ho
  · cases he.symm.trans hi
  · obtain rfl : j = i := Except.ok.inj (hj.symm.trans hi)
    exact h.trans (runInstr_of_exec hu)

/-- Under `External` no tick follows the instruction (R99). -/
theorem afterExecute_external (u : State) : afterExecute .external u = u := ite_self u

/-- No tick follows a fault (R94). -/
theorem afterExecute_faulted {mode : TimerMode} {u : State} (hu : u.fault ≠ .none) : afterExecute mode u = u := if_neg hu

/-- Settles O7: the step runs the instruction, and the tick phase goes by the mode and the fault register. -/
theorem stepRunsTheDecodedInstruction : Obligations.StepRunsTheDecodedInstruction := by
  intro s i hf hpc hi
  obtain ⟨t, ht⟩ := exec_next i (clearOutputs s)
  have hstep (mode : TimerMode) : stepIn mode s = .next (afterExecute mode t) := stepIn_of_exec hf hpc hi ht
  refine ⟨rfl, t, ht, fun hn => ?_, fun hn => ?_⟩
  · rw [hstep, hstep, afterExecute_perStep hn, afterExecute_external]
    exact ⟨rfl, rfl⟩
  · rw [hstep, hstep, afterExecute_faulted hn, afterExecute_faulted hn]
    exact ⟨rfl, rfl⟩

/-- Settles O8: past the test of the fault register, each of the three ways a step can go answers a next state. -/
theorem stepExistsExactlyWhenNotFaulted : Obligations.StepExistsExactlyWhenNotFaulted := by
  intro mode s
  refine ⟨stepIn_faulted, fun hf => ?_⟩
  rcases stepIn_cases (mode := mode) hf with ⟨-, h⟩ | ⟨-, -, h⟩ | ⟨i, -, -, h⟩
  · exact ⟨_, h⟩
  · exact ⟨_, h⟩
  · obtain ⟨u, hu⟩ := exec_next i (clearOutputs s)
    exact ⟨_, h.trans (runInstr_of_exec hu)⟩

/-! ### Fetch -/

/-- The word of two bytes is `b0 × 256 + b1` (R53). -/
theorem wordOfBytes_eq_ofNat (b0 b1 : Byte) : wordOfBytes b0 b1 = BitVec.ofNat 16 (b0.toNat * 256 + b1.toNat) := by
  rw [← wordOfBytes_toNat, BitVec.ofNat_toNat, BitVec.setWidth_eq]

/-- What is decoded is the word of the bytes at pc and pc + 1 (R91). -/
theorem fetched_eq (s : State) :
    fetched s = decode (wordOfBytes (readMem s s.pc.toNat) (readMem s (s.pc.toNat + 1))) := rfl

/-- Settles O6: the fetch bound comes before everything else, and the two bytes fetched are read big-endian. -/
theorem fetchIsBoundedAndBigEndian : Obligations.FetchIsBoundedAndBigEndian := by
  refine ⟨fun mode s hf hpc => stepIn_of_pc_gt hf hpc, fun s => ?_⟩
  rw [fetched_eq, wordOfBytes_eq_ofNat]

/-! ### The tick -/

/-- The beep after a tick (R94). -/
theorem tick_beep_iff (s : State) : (tick s).beep = true ↔ s.st = 1 ∨ s.beep = true := by
  by_cases h : s.st = 1 <;> simp [h]

/-- Settles O9: the tick field by field, and the mode decides about nothing but the tick. -/
theorem tickLowersBothTimers : Obligations.TickLowersBothTimers := by
  refine ⟨fun s => ⟨decTimer_toNat s.dt, decTimer_toNat s.st, ?_, rfl⟩, fun s t h hf => ?_⟩
  · rw [tick_beep_iff, ← BitVec.toNat_inj]
    rfl
  · obtain ⟨hs, ⟨-, rfl⟩ | ⟨-, -, rfl⟩ | ⟨i, u, hpc, hi, hu, rfl⟩⟩ := step_cases h
    · cases hf
    · cases hf
    · rw [afterExecute_fault] at hf
      have hext := stepIn_of_exec (mode := .external) hs hpc hi hu
      rw [afterExecute_external] at hext
      exact ⟨u, hext, afterExecute_perStep hf⟩

/-! ### Outputs -/

/-- A completed instruction leaves the beep alone, and DXYN alone sets `frame_dirty` (R95). -/
theorem exec_outputs {i : Instr} {s t : State} (h : exec i s = .next t) (hf : t.fault = .none) :
    t.beep = s.beep ∧ (t.frameDirty = true ↔ s.frameDirty = true ∨ ∃ x y n, i = .drw x y n) := by
  cases i
  case ret =>
    rcases execRet_cases s with ⟨-, he⟩ | ⟨w, rest, -, he⟩ <;> obtain rfl := exec_next_unique (i := .ret) h he
    · cases hf
    · simp
  case call nnn =>
    rcases execCall_cases nnn s with ⟨-, he⟩ | ⟨-, he⟩ <;> obtain rfl := exec_next_unique (i := .call nnn) h he
    · cases hf
    · simp
  case ldBVx x =>
    rcases execLdBVx_cases x s with ⟨-, he⟩ | ⟨-, he⟩ <;> obtain rfl := exec_next_unique (i := .ldBVx x) h he
    · simp
    · cases hf
  case stRegs x =>
    rcases execStRegs_cases x s with ⟨-, he⟩ | ⟨-, he⟩ <;> obtain rfl := exec_next_unique (i := .stRegs x) h he
    · simp
    · cases hf
  case ldRegs x =>
    rcases execLdRegs_cases x s with ⟨-, he⟩ | ⟨-, he⟩ <;> obtain rfl := exec_next_unique (i := .ldRegs x) h he
    · simp
    · cases hf
  case drw x y n =>
    rcases execDrw_cases x y n s with ⟨-, -, he⟩ | ⟨-, he⟩ <;> obtain rfl := exec_next_unique (i := .drw x y n) h he
    · simp [drawn]
    · cases hf
  case shr | subn | shl | ldVxK | addIVx => cases h; cases hf
  -- The rows left have no check of their own: each is one chain of updates, none of them of an output.
  all_goals cases h; simp

/-- The sound timer an instruction leaves to the tick: VX after FX18, as before after any other (R163, R164). -/
theorem exec_st {i : Instr} {s t : State} (h : exec i s = .next t) :
    (∃ x, i = .ldStVx x ∧ t.st = readV s x) ∨ ((∀ x, i ≠ .ldStVx x) ∧ t.st = s.st) := by
  by_cases hi : ∃ x, i = .ldStVx x
  · obtain ⟨x, rfl⟩ := hi
    cases h
    exact .inl ⟨x, rfl, rfl⟩
  · refine .inr ⟨not_exists.mp hi, ?_⟩
    obtain ⟨f, -, rfl⟩ | hc := exec_cases h
    · rfl
    · exact hc.st.resolve_right hi

/-- A step takes a fault and changes nothing else, or has run the fetched instruction without a fault and then ticked as
the mode says. -/
theorem step_faults_or_completes {mode : TimerMode} {s t : State} (h : stepIn mode s = .next t) :
    (∃ f, f ≠ .none ∧ t = faulted f s) ∨
      ∃ i, fetched s = .ok i ∧ ∃ u, exec i (clearOutputs s) = .next u ∧ u.fault = .none ∧ t = afterExecute mode u := by
  obtain ⟨hs, hfault | ⟨i, u, -, hi, hc, ht⟩⟩ := step_effect h
  · exact .inl hfault
  · have hf : t.fault = .none := by rw [ht, afterExecute_fault, hc.fault, hs]
    exact .inr ⟨i, hi, exec_of_completing_step h hf hi⟩

/-- Settles O10: a fault clears both outputs; a completed step sets `frame_dirty` in DXYN and the beep in its tick. -/
theorem outputsOfAStep : Obligations.OutputsOfAStep := by
  intro s t h
  obtain ⟨f, hf, rfl⟩ | ⟨i, hi, u, hu, huf, rfl⟩ := step_faults_or_completes h
  · simp [hf]
  · obtain ⟨hbeep, hdirty⟩ := exec_outputs hu huf
    rw [afterExecute_perStep huf, tick_beep_iff, tick_frameDirty, tick_fault, hdirty, hbeep, hi]
    obtain ⟨x, rfl, hst⟩ | ⟨hne, hst⟩ := exec_st hu
    · simp [huf, hst]
    · simp [huf, hst, hne]

/-! ### The random input -/

/-- The state with its count of draws replaced: another free byte comes next (log 2). -/
def setDraws (n : Nat) (s : State) : State := { s with draws := n }

/-- Apply a function to the next state of a result, where it has one. -/
def mapNext (f : State → State) : Result → Result
  | .next t => .next (f t)
  | .fault r => .fault r
  | .refused r => .refused r

/-- The tick phase neither reads nor changes the count of draws (R94). -/
theorem afterExecute_setDraws (mode : TimerMode) (n : Nat) (u : State) :
    afterExecute mode (setDraws n u) = setDraws n (afterExecute mode u) := by
  by_cases hu : u.fault = .none
  · cases mode
    · rw [afterExecute_perStep hu, afterExecute_perStep (u := setDraws n u) hu]
      rfl
    · rw [afterExecute_external, afterExecute_external]
  · rw [afterExecute_faulted hu, afterExecute_faulted (u := setDraws n u) hu]

/-- An extent check neither reads nor changes the count of draws (R141). -/
theorem withExtent_setDraws (k n : Nat) (s : State) (go : Result) :
    withExtent k (setDraws n s) (mapNext (setDraws n) go) = mapNext (setDraws n) (withExtent k s go) := by
  have hbase : baseAddress (setDraws n s) = baseAddress s := rfl
  rw [withExtent, withExtent, hbase, apply_ite (mapNext (setDraws n))]
  rfl

/-- Every instruction but CXNN neither reads nor changes the count of draws (R96). -/
theorem exec_setDraws {i : Instr} (hi : ∀ x nn, i ≠ .rnd x nn) (n : Nat) (s : State) :
    exec i (setDraws n s) = mapNext (setDraws n) (exec i s) := by
  cases i
  case rnd x nn => exact absurd rfl (hi x nn)
  case ret =>
    change execRet (setDraws n s) = mapNext (setDraws n) (execRet s)
    cases hs : s.stack with
    | nil =>
      rw [execRet, execRet, pop_empty hs, pop_empty (s := setDraws n s) hs]
      rfl
    | cons w rest =>
      rw [execRet, execRet, pop_ok hs, pop_ok (s := setDraws n s) hs]
      rfl
  case call nnn =>
    change execCall nnn (setDraws n s) = mapNext (setDraws n) (execCall nnn s)
    by_cases hs : sp s = 16
    · rw [execCall, execCall, push_full hs, push_full (s := setDraws n s) hs]
      rfl
    · rw [execCall, execCall, push_ok hs, push_ok (s := setDraws n s) hs]
      rfl
  case ldBVx | stRegs | ldRegs =>
    refine Eq.trans ?_ (withExtent_setDraws _ n s _)
    rfl
  case drw x y m =>
    refine Eq.trans ?_ (withExtent_setDraws _ n s _)
    rw [apply_ite (mapNext (setDraws n))]
    rfl
  all_goals rfl

/-- A step that fetches no CXNN is the same step whatever free byte comes next (R96). -/
theorem stepIn_setDraws {mode : TimerMode} {s : State} (h : ∀ x nn, fetched s ≠ .ok (.rnd x nn)) (n : Nat) :
    stepIn mode (setDraws n s) = mapNext (setDraws n) (stepIn mode s) := by
  by_cases hf : s.fault = .none
  · rcases stepIn_cases (mode := mode) hf with ⟨ho, he⟩ | ⟨ho, ⟨e, hd⟩, he⟩ | ⟨i, ho, hd, he⟩ <;> rw [he]
    · exact stepIn_of_pc_gt (s := setDraws n s) hf (Nat.not_le.mp (of_decide_eq_false ho))
    · exact stepIn_of_fetched_error (s := setDraws n s) hf ho hd
    · have hi : ∀ x nn, i ≠ .rnd x nn := fun x nn hi => h x nn (hd.trans (congrArg _ hi))
      obtain ⟨u, hu⟩ := exec_next i (clearOutputs s)
      have hu' : exec i (clearOutputs (setDraws n s)) = .next (setDraws n u) := by
        change exec i (setDraws n (clearOutputs s)) = _
        rw [exec_setDraws hi, hu]
        rfl
      rw [stepIn_of_exec (s := setDraws n s) hf (of_decide_eq_true ho) hd hu', runInstr_of_exec hu, afterExecute_setDraws]
      rfl
  · rw [stepIn_faulted hf]
    exact stepIn_faulted (s := setDraws n s) hf

/-- Settles O21: the step commutes with replacing the count of draws; replaced by itself, it says the count is kept. -/
theorem onlyRndReadsTheRandomInput : Obligations.OnlyRndReadsTheRandomInput := by
  intro mode s n hi
  refine ⟨fun t h => ⟨?_, ?_⟩, fun r h => ?_⟩
  · have hself := stepIn_setDraws (mode := mode) hi s.draws
    rw [h] at hself
    have ht : t = setDraws s.draws t := Host.Outcome.next.inj (h.symm.trans hself)
    rw [ht]
    rfl
  · exact (stepIn_setDraws hi n).trans (congrArg (mapNext (setDraws n)) h)
  · exact (stepIn_setDraws hi n).trans (congrArg (mapNext (setDraws n)) h)

end Sys2Proof.Machine
end

section
/-! PROOFS. The family 41_control_flow.md: the jumps, and call and return by one rule for each outcome of 00EE and 2NNN. -/

namespace Sys2Proof

/-- Decoding and encoding are inverse to each other: one word decodes to an instruction, the one it encodes to (R75, D3). -/
theorem decode_eq_ok_iff (w : Word) (i : Instr) : decode w = .ok i ↔ w = encode i := by
  constructor
  · intro h
    exact (encodeOfDecodeIsTheWord w i h).symm
  · rintro rfl
    exact decode_encode i

end Sys2Proof

namespace Sys2Proof.Machine

/-! ### Frames -/

/-- An assignment to the pc changes nothing else (R26). -/
theorem sameBesidesPc_setPc (w : Word) (s : State) : SameBesidesPc s (setPc w s) :=
  ⟨fun _ => rfl, ⟨fun _ => rfl, rfl, rfl, ⟨rfl, rfl⟩, ⟨rfl, rfl, rfl⟩, rfl, rfl⟩, rfl⟩

/-- Everything but the pc and the call stack is as before. -/
def SameBesidesPcAndStack (s t : State) : Prop :=
  SameRegs s t ∧ SameMemory s t ∧ t.i = s.i ∧ SameTimers s t ∧ SameDisplay s t ∧ SameInputs s t ∧ t.draws = s.draws

/-- What a completed call or return does to the state, a new stack and a jump, changes nothing else (R101, R103). -/
theorem sameBesidesPcAndStack_setPc (w : Word) (ws : List Word) (s : State) :
    SameBesidesPcAndStack s (setPc w { s with stack := ws }) :=
  ⟨fun _ => rfl, fun _ => rfl, rfl, ⟨rfl, rfl⟩, ⟨rfl, rfl, rfl⟩, ⟨rfl, rfl⟩, rfl⟩

/-! ### The entries under a new top -/

/-- The entry at the old depth is the one pushed (R30). -/
theorem stackEntry_sp_of_stack_eq_cons {s t : State} {w : Word} (h : t.stack = w :: s.stack) :
    stackEntry t (sp s) = some w := by
  rw [stackEntry, h, List.reverse_cons, sp, ← List.length_reverse, List.getElem?_concat_length]

/-- The entries below the old depth stay where they were, counted from the bottom (R30). -/
theorem stackEntry_of_stack_eq_cons {s t : State} {w : Word} (h : t.stack = w :: s.stack) {k : Nat} (hk : k < sp s) :
    stackEntry t k = stackEntry s k := by
  rw [stackEntry, h, List.reverse_cons, List.getElem?_append_left (by rwa [List.length_reverse]), stackEntry]

/-! ### Return and call, each outcome -/

/-- 00EE on an empty stack (R101). -/
theorem exec_ret_of_empty {s : State} (h : s.stack = []) : exec .ret s = .next (faulted .stackUnderflow s) := by
  change execRet s = _
  rw [execRet, pop_empty h]
  rfl

/-- 00EE with a live entry (R101). -/
theorem exec_ret_of_cons {s : State} {w : Word} {rest : List Word} (h : s.stack = w :: rest) :
    exec .ret s = .next (setPc w { s with stack := rest }) := by
  change execRet s = _
  rw [execRet, pop_ok h]

/-- 2NNN at depth 16 (R103). -/
theorem exec_call_of_full {s : State} (h : sp s = 16) (nnn : Addr12) :
    exec (.call nnn) s = .next (faulted .stackOverflow s) := by
  change execCall nnn s = _
  rw [execCall, push_full h]
  rfl

/-- 2NNN below depth 16 (R103). -/
theorem exec_call_of_not_full {s : State} (h : sp s ≠ 16) (nnn : Addr12) :
    exec (.call nnn) s = .next (setPc (addrWord nnn) { s with stack := (s.pc + 2) :: s.stack }) := by
  change execCall nnn s = _
  rw [execCall, push_ok h]

/-! ### The obligations -/

/-- Settles O28: 0x00EE is the encoding of RET, and the stack decides between the two outcomes. -/
theorem retPopsIntoThePc : Obligations.RetPopsIntoThePc := by
  refine ⟨fun w => decode_eq_ok_iff w .ret, fun s => exec_ret_of_empty, fun s w rest hs => ?_⟩
  have hsp : rest.length = sp s - 1 := by rw [sp, hs, List.length_cons, Nat.add_sub_cancel]
  exact ⟨_, exec_ret_of_cons hs, rfl, rfl, hsp, sameBesidesPcAndStack_setPc w rest s⟩

/-- Settles O29: the target is the immediate, widened with zeros. -/
theorem jumpAssignsNNN : Obligations.JumpAssignsNNN := fun nnn s =>
  ⟨decode_encode (.jp nnn), _, rfl, addrWord_toNat nnn, sameBesidesPc_setPc _ s⟩

/-- Settles O30: the depth decides between the two outcomes, and the push puts one entry on top of the older ones. -/
theorem callPushesTheReturnAddress : Obligations.CallPushesTheReturnAddress := by
  intro nnn s
  refine ⟨decode_encode (.call nnn), fun hs => exec_call_of_full hs nnn, fun hs => ?_⟩
  exact ⟨_, exec_call_of_not_full hs nnn, addrWord_toNat nnn, rfl, rfl, stackEntry_sp_of_stack_eq_cons rfl,
    fun k hk => stackEntry_of_stack_eq_cons rfl hk, sameBesidesPcAndStack_setPc _ _ s⟩

/-- Settles O31: the 16-bit sum of V0 and the immediate is the exact one. -/
theorem indexedJumpAddsV0 : Obligations.IndexedJumpAddsV0 := fun nnn s =>
  ⟨decode_encode (.jpV0 nnn), _, rfl, indexedTarget_toNat _ nnn, sameBesidesPc_setPc _ s⟩

/-- Settles O32: the top entry the RET pops is the one the call pushed, and under it lies the stack of the call. -/
theorem callThenReturnResumesAfterTheCall : Obligations.CallThenReturnResumesAfterTheCall := by
  intro nnn s t u hs hcall hu
  obtain rfl := exec_next_unique hcall (exec_call_of_not_full hs.ne nnn)
  exact ⟨_, exec_ret_of_cons hu, rfl, rfl, rfl⟩

end Sys2Proof.Machine
end

section
/-! PROOFS. The family 42_skip.md: one rule for every instruction that skips on a test, the key a skip tests, and the words
of the two register skips that no row matches. -/

namespace Sys2Proof

/-! ### The fourth digit of the register skips (D3, log 12) -/

theorem decode_wordXY_5_of_ne_zero (x y : Reg) {k : Nibble} (hk : k ≠ 0) :
    decode (wordXY 0x5 x y k) = .error .illegalFamily5 := by
  simp only [decode, fieldF_wordXY, fieldN_wordXY]
  exact if_neg hk

theorem decode_wordXY_9_of_ne_zero (x y : Reg) {k : Nibble} (hk : k ≠ 0) :
    decode (wordXY 0x9 x y k) = .error .illegalFamily9 := by
  simp only [decode, fieldF_wordXY, fieldN_wordXY]
  exact if_neg hk

end Sys2Proof

namespace Sys2Proof.Machine

/-! ### A skip on a test -/

/-- An instruction that answers `skipIf c` completes, skips exactly when the proposition `c` decides holds, and changes
nothing but the pc (R110). -/
theorem skip_completes {i : Instr} {s : State} {c : Bool} (hi : exec i s = .next (skipIf c s)) {p : Prop} [Decidable p]
    (hp : c = true ↔ p) :
    ∃ t, exec i s = .next t ∧ t.pc = (if p then s.pc + 4 else s.pc + 2) ∧ SameBesidesPc s t :=
  ⟨_, hi, if_congr hp rfl rfl, sameBesidesPc_setPc _ s⟩

/-! ### The key under test -/

theorem lowNibble_val (b : Byte) : (lowNibble b).val = b.toNat % 16 := by
  change (b.extractLsb' 0 4).toNat = _
  rw [BitVec.extractLsb'_toNat, Nat.shiftRight_zero]

/-- The key a skip tests is the one the low nibble of `VX` names (R115). -/
theorem keyPressed_eq {s : State} {x : Reg} {k : Fin 16} (hk : k.val = (readV s x).toNat % 16) :
    keyPressed s x = s.key[k] := by
  have : lowNibble (readV s x) = k := Fin.ext ((lowNibble_val _).trans hk.symm)
  simp only [keyPressed, this]

/-! ### The obligations -/

/-- Settles O33: both are skips, on the test `VX = NN` and on its negation. -/
theorem skipOnImmediate : Obligations.SkipOnImmediate := fun x nn _ =>
  ⟨decode_encode (.seImm x nn), decode_encode (.sneImm x nn), skip_completes rfl beq_iff_eq, skip_completes rfl bne_iff_ne⟩

/-- Settles O34: both are skips, on the test `VX = VY` and on its negation, and their fourth digit is fixed. -/
theorem skipOnRegister : Obligations.SkipOnRegister := fun x y _ =>
  ⟨decode_encode (.seReg x y), decode_encode (.sneReg x y),
    fun _ hk => ⟨⟨_, decode_wordXY_5_of_ne_zero x y hk⟩, _, decode_wordXY_9_of_ne_zero x y hk⟩,
    skip_completes rfl beq_iff_eq, skip_completes rfl bne_iff_ne⟩

/-- Settles O35: both are skips, on the key the low nibble of `VX` names and on its negation. -/
theorem skipOnKey : Obligations.SkipOnKey := by
  intro x s k hk
  have hkey : keyPressed s x = s.key[k] := keyPressed_eq hk
  refine ⟨decode_encode (.skp x), decode_encode (.sknp x), skip_completes rfl ?_, skip_completes rfl ?_⟩
  · rw [hkey]
  · rw [hkey, Bool.not_eq_true']

end Sys2Proof.Machine
end

section
/-! PROOFS. The family 43_alu.md: one rule for every plain write of a register, one for a result followed by its flag, and
one for the five rows that only fault. -/

namespace Sys2Proof.Machine

/-! ### The two shapes of an arithmetic instruction -/

/-- An assignment to a register and the advance change nothing else (R120). -/
theorem sameBesidesRegs_writeV (x : Reg) (b : Byte) (s : State) : SameBesidesRegs s (advance (writeV x b s)) :=
  ⟨fun _ => rfl, rfl, rfl, ⟨rfl, rfl⟩, ⟨rfl, rfl, rfl⟩, rfl, rfl⟩

/-- The plain register write completes: `VX` receives the byte, and nothing else moves but the pc (R120). -/
theorem loadReg_completes (x : Reg) (b : Byte) (s : State) :
    ∃ t, loadReg x b s = .next t ∧ readV t x = b ∧ SameRegsBut x s t ∧ t.pc = s.pc + 2 ∧ SameBesidesRegs s t ∧
      t.draws = s.draws := by
  refine ⟨_, rfl, ?_, fun r hr => ?_, rfl, sameBesidesRegs_writeV x b s, rfl⟩
  · rw [readV_advance, readV_writeV, if_pos rfl]
  · rw [readV_advance, readV_writeV, if_neg hr]

/-- A plain write of an operation on VX and VY that acts on each bit alone (R124 to R126). -/
theorem bitwise_completes {op : Byte → Byte → Byte} {bit : Bool → Bool → Bool}
    (hop : ∀ a b k, (op a b).getLsbD k = bit (a.getLsbD k) (b.getLsbD k)) (x y : Reg) (s : State) :
    ∃ t, loadReg x (op (readV s x) (readV s y)) s = .next t ∧
      (∀ k < 8, (readV t x).getLsbD k = bit ((readV s x).getLsbD k) ((readV s y).getLsbD k)) ∧ SameRegsBut x s t ∧
      t.pc = s.pc + 2 ∧ SameBesidesRegs s t ∧ t.draws = s.draws := by
  obtain ⟨t, ht, hv, hframe⟩ := loadReg_completes x (op (readV s x) (readV s y)) s
  exact ⟨t, ht, fun k _ => by rw [hv, hop], hframe⟩

/-- An instruction that writes a result and then a flag completes: the flag is in VF whichever register X names, and the
result is in `VX` unless the flag replaced it (R127, D12). -/
theorem flagged_completes {i : Instr} {x : Reg} {b : Byte} {c : Bool} {s : State}
    (hi : exec i s = .next (advance (writeFlag c (writeV x b s)))) :
    ∃ t, exec i s = .next t ∧ (x ≠ 15 → readV t x = b) ∧ readV t 15 = flagByte c ∧
      (∀ r, r ≠ x → r ≠ 15 → readV t r = readV s r) ∧ t.pc = s.pc + 2 ∧ SameBesidesRegs s t ∧ t.draws = s.draws := by
  refine ⟨_, hi, fun hx => ?_, ?_, fun r hrx hr => ?_, rfl, sameBesidesRegs_writeV x b s, rfl⟩
  · rw [readV_advance, readV_writeFlag, if_neg hx, readV_writeV, if_pos rfl]
  · rw [readV_advance, readV_writeFlag, if_pos rfl]
  · rw [readV_advance, readV_writeFlag, if_neg hr, readV_writeV, if_neg hrx]

/-! ### Sums, differences and their flags -/

/-- VF after 8XY4 is 1 exactly when the exact sum exceeds 255 (R128). -/
theorem flagByte_carry (a b : Byte) : flagByte (carry a b) = if a.toNat + b.toNat > 255 then 1 else 0 :=
  if_congr decide_eq_true_iff rfl rfl

/-- VF after 8XY5 is 0 exactly when the subtrahend is the greater (R129). -/
theorem flagByte_notBorrow (a b : Byte) : flagByte (notBorrow a b) = if b.toNat > a.toNat then 0 else 1 := by
  by_cases h : b.toNat > a.toNat <;> simp [flagByte, notBorrow, h]

/-- The difference of two bytes wraps modulo 256 (R135). -/
theorem toNat_byte_sub (a b : Byte) : (a - b).toNat = (a.toNat + 256 - b.toNat) % 256 := by
  have := b.isLt
  rw [BitVec.toNat_sub]
  omega

/-! ### The unimplemented opcodes -/

/-- The whole effect of each of the five named rows is to take UnsupportedOpcode (R130 to R132, R142, R161). -/
theorem exec_of_unimplemented {i : Instr} (h : unimplemented i = true) (s : State) :
    exec i s = .next (faulted .unsupportedOpcode s) := by
  cases i
  case shr | subn | shl | ldVxK | addIVx => rfl
  all_goals cases h

/-- A step that fetches one of the five takes the fault, and no tick follows it (R94, R176). -/
theorem stepIn_of_unimplemented {mode : TimerMode} {s : State} {i : Instr} (hf : s.fault = .none) (hpc : s.pc.toNat ≤ 4094)
    (hi : fetched s = .ok i) (hu : unimplemented i = true) : stepIn mode s = .next (faulted .unsupportedOpcode s) := by
  have hnotick : afterExecute mode (faulted .unsupportedOpcode (clearOutputs s)) = faulted .unsupportedOpcode s :=
    afterExecute_faulted nofun
  rw [stepIn_of_exec hf hpc hi (exec_of_unimplemented hu (clearOutputs s)), hnotick]

/-! ### The obligations -/

/-- Settles O36: a plain write of the immediate. -/
theorem loadImmediate : Obligations.LoadImmediate := fun x nn s =>
  ⟨decode_encode (.ldImm x nn), loadReg_completes x nn s⟩

/-- Settles O37: a plain write of the 8-bit sum. -/
theorem addImmediateSetsNoFlag : Obligations.AddImmediateSetsNoFlag := by
  intro x nn s
  obtain ⟨t, ht, hv, hframe⟩ := loadReg_completes x (readV s x + nn) s
  exact ⟨decode_encode (.addImm x nn), t, ht, by rw [hv, BitVec.toNat_add], hframe⟩

/-- Settles O38: a plain write of the other register. -/
theorem moveRegister : Obligations.MoveRegister := fun x y s =>
  ⟨decode_encode (.ldReg x y), loadReg_completes x (readV s y) s⟩

/-- Settles O39: OR, AND and XOR of bytes act on each bit alone. -/
theorem logicActsBitByBit : Obligations.LogicActsBitByBit := fun x y s =>
  ⟨decode_encode (.orReg x y), decode_encode (.andReg x y), decode_encode (.xorReg x y),
    bitwise_completes (fun _ _ _ => BitVec.getLsbD_or) x y s, bitwise_completes (fun _ _ _ => BitVec.getLsbD_and) x y s,
    bitwise_completes (fun _ _ _ => BitVec.getLsbD_xor) x y s⟩

/-- Settles O40: the 8-bit sum, then the carry of the exact one. -/
theorem addSetsTheCarry : Obligations.AddSetsTheCarry := by
  intro x y s
  obtain ⟨t, ht, hv, hflag, hframe⟩ := flagged_completes (i := .addReg x y) (s := s) rfl
  exact ⟨decode_encode (.addReg x y), t, ht, fun hx => by rw [hv hx, BitVec.toNat_add],
    hflag.trans (flagByte_carry ..), hframe⟩

/-- Settles O41: the 8-bit difference, then whether it borrowed. -/
theorem subSetsNotBorrow : Obligations.SubSetsNotBorrow := by
  intro x y s
  obtain ⟨t, ht, hv, hflag, hframe⟩ := flagged_completes (i := .subReg x y) (s := s) rfl
  exact ⟨decode_encode (.subReg x y), t, ht, fun hx => by rw [hv hx, toNat_byte_sub],
    hflag.trans (flagByte_notBorrow ..), hframe⟩

/-- Settles O42: the five rows decode as all rows do, and executing one is the fault alone. -/
theorem unimplementedOpcodesFault : Obligations.UnimplementedOpcodesFault := by
  refine ⟨fun x y s => ?_, fun x s => ?_, fun mode s i hf hpc hi hu => ?_⟩
  · exact ⟨decode_encode (.shr x y), decode_encode (.subn x y), decode_encode (.shl x y),
      exec_of_unimplemented rfl s, exec_of_unimplemented rfl s, exec_of_unimplemented rfl s⟩
  · exact ⟨decode_encode (.ldVxK x), decode_encode (.addIVx x), exec_of_unimplemented rfl s, exec_of_unimplemented rfl s⟩
  · exact ⟨_, stepIn_of_unimplemented hf hpc hi hu, rfl, fun _ => rfl, rfl, rfl, rfl, rfl⟩

/-- Settles O43: a plain write of the masked byte, after the draw is counted. -/
theorem randomByteIsMasked : Obligations.RandomByteIsMasked := by
  intro x nn s
  obtain ⟨t, ht, hv, hregs, hpc, hrest, hdraws⟩ := loadReg_completes x (Config.rnd s.draws &&& nn) (countDraw s)
  have hmask : readV t x &&& ~~~nn = 0 := by
    rw [hv, BitVec.and_assoc, BitVec.and_not_self]
    exact BitVec.and_zero
  have hzero : nn = 0 → readV t x = 0 := fun hn => by
    rw [hv, hn]
    exact BitVec.and_zero
  exact ⟨decode_encode (.rnd x nn), t, ht, hv, hmask, hzero, hdraws, hregs, hpc, hrest⟩

end Sys2Proof.Machine
end

section
/-! PROOFS. The family 44_index_memory.md: one rule for the two loads of I, and for the three block accesses the two outcomes
of their extent check and what a completed one has left in memory or in the registers. -/

namespace Sys2Proof.Machine

/-! ### Loads of the index register -/

/-- An instruction that answers a load of I completes: I is the number the loaded word stands for, and nothing else moves but
the pc (R140, R143). -/
theorem setI_completes {i : Instr} {s : State} {w : Word} (hi : exec i s = .next (advance (setI w s))) {n : Nat}
    (hw : w.toNat = n) :
    ∃ t, exec i s = .next t ∧ t.i.toNat = n ∧ t.pc = s.pc + 2 ∧ SameRegs s t ∧ SameMemory s t ∧ t.stack = s.stack ∧
      SameTimers s t ∧ SameDisplay s t ∧ SameInputs s t ∧ t.draws = s.draws :=
  ⟨_, hi, hw, rfl, fun _ => rfl, fun _ => rfl, rfl, ⟨rfl, rfl⟩, ⟨rfl, rfl, rfl⟩, ⟨rfl, rfl⟩, rfl⟩

/-! ### The extent check -/

/-- The two outcomes of an access whose last address is `a`, each told from the bound alone (R141). -/
theorem outcomes_of_bound {a : Nat} {r : Result} {done fault : State}
    (h : (a ≤ 4095 ∧ r = .next done) ∨ (a > 4095 ∧ r = .next fault)) :
    (a > 4095 → r = .next fault) ∧ (a ≤ 4095 → r = .next done) := by
  rcases h with ⟨ha, hr⟩ | ⟨ha, hr⟩
  · exact ⟨fun hgt => absurd ha (Nat.not_le.mpr hgt), fun _ => hr⟩
  · exact ⟨fun _ => hr, fun hle => absurd hle (Nat.not_le.mpr ha)⟩

/-! ### Stores -/

/-- Everything but memory and the pc is as before. -/
def SameBesidesMemoryAndPc (s t : State) : Prop :=
  SameRegs s t ∧ t.i = s.i ∧ t.stack = s.stack ∧ SameTimers s t ∧ SameDisplay s t ∧ SameInputs s t ∧ t.draws = s.draws

/-- A store and the advance change nothing else, I included (R145, D11). -/
theorem sameBesidesMemoryAndPc_writeMem (a : Nat) (bs : List Byte) (s : State) :
    SameBesidesMemoryAndPc s (advance (writeMem a bs s)) :=
  ⟨fun _ => rfl, rfl, rfl, ⟨rfl, rfl⟩, ⟨rfl, rfl, rfl⟩, ⟨rfl, rfl⟩, rfl⟩

/-! The bytes an FX33 has left (R144). -/

theorem byteAfterDigits_hundreds (x : Reg) (s : State) :
    (byteAfterDigits x s s.i.toNat).toNat = (readV s x).toNat / 100 := by
  have := (readV s x).isLt
  rw [byteAfterDigits, if_pos rfl, BitVec.toNat_ofNat]
  omega

theorem byteAfterDigits_tens (x : Reg) (s : State) :
    (byteAfterDigits x s (s.i.toNat + 1)).toNat = (readV s x).toNat / 10 % 10 := by
  rw [byteAfterDigits, if_neg (by omega), if_pos rfl, BitVec.toNat_ofNat]
  omega

theorem byteAfterDigits_units (x : Reg) (s : State) :
    (byteAfterDigits x s (s.i.toNat + 2)).toNat = (readV s x).toNat % 10 := by
  rw [byteAfterDigits, if_neg (by omega), if_neg (by omega), if_pos rfl, BitVec.toNat_ofNat]
  omega

theorem byteAfterDigits_outside {s : State} {a : Nat} (ha : a < s.i.toNat ∨ s.i.toNat + 2 < a) (x : Reg) :
    byteAfterDigits x s a = readMem s a := by
  rw [byteAfterDigits, if_neg (by omega), if_neg (by omega), if_neg (by omega)]

/-! The bytes an FX55 has left (R146). -/

theorem byteAfterRegs_of_le {x k : Reg} (hk : k ≤ x) (s : State) : byteAfterRegs x s (s.i.toNat + k.val) = readV s k := by
  rw [byteAfterRegs, dif_pos ⟨Nat.le_add_right .., Nat.add_le_add_left hk _⟩]
  congr 1
  exact Fin.ext (Nat.add_sub_cancel_left ..)

theorem byteAfterRegs_outside {x : Reg} {s : State} {a : Nat} (ha : a < s.i.toNat ∨ s.i.toNat + x.val < a) :
    byteAfterRegs x s a = readMem s a :=
  dif_neg (by omega)

/-! ### Loads of the registers -/

/-- A load of registers and the advance change nothing but registers and the pc, I included (R145, D11). -/
theorem sameBesidesRegs_writeVUpTo (x : Reg) (f : Nat → Byte) (s : State) :
    SameBesidesRegs s (advance (writeVUpTo x f s)) := by
  simp [SameBesidesRegs, SameMemory, SameTimers, SameDisplay, SameInputs]

/-! ### The obligations -/

/-- Settles O44: a load of the immediate, widened with zeros. -/
theorem loadIndex : Obligations.LoadIndex := fun nnn _ =>
  ⟨decode_encode (.ldI nnn), setI_completes rfl (addrWord_toNat nnn)⟩

/-- Settles O45: a load of the glyph's address, which the low nibble of `VX` alone fixes. -/
theorem loadGlyphAddress : Obligations.LoadGlyphAddress := by
  intro x s
  have haddr : (glyphAddress (readV s x)).toNat = 5 * ((readV s x).toNat % 16) := by
    rw [glyphAddress_toNat, lowNibble_val]
  exact ⟨decode_encode (.ldFVx x), setI_completes rfl haddr⟩

/-- Settles O46: the bound decides between the two outcomes, and each stored digit is below 10 and so exact in 8 bits. -/
theorem storeDecimalDigits : Obligations.StoreDecimalDigits := by
  intro x s hw
  obtain ⟨hfault, hdone⟩ := outcomes_of_bound (execLdBVx_cases x s)
  refine ⟨decode_encode (.ldBVx x), hfault, fun hb => ⟨_, hdone hb, ?_⟩⟩
  simp only [readMem_advance, readMem_storedDigits hw hb]
  exact ⟨byteAfterDigits_hundreds x s, byteAfterDigits_tens x s, byteAfterDigits_units x s,
    fun _ ha => byteAfterDigits_outside ha x, rfl, sameBesidesMemoryAndPc_writeMem _ _ s⟩

/-- Settles O47: the bound decides between the two outcomes, and the distance of a byte from I is the register it holds. -/
theorem storeRegisters : Obligations.StoreRegisters := by
  intro x s hw
  obtain ⟨hfault, hdone⟩ := outcomes_of_bound (execStRegs_cases x s)
  refine ⟨decode_encode (.stRegs x), hfault, fun hb => ⟨_, hdone hb, ?_⟩⟩
  simp only [readMem_advance, readMem_storedRegs hw hb]
  exact ⟨fun _ hk => byteAfterRegs_of_le hk s, fun _ ha => byteAfterRegs_outside ha, rfl,
    sameBesidesMemoryAndPc_writeMem _ _ s⟩

/-- Settles O48: the bound decides between the two outcomes, and the number of a register decides whether it is loaded. -/
theorem loadRegisters : Obligations.LoadRegisters := by
  intro x s
  obtain ⟨hfault, hdone⟩ := outcomes_of_bound (execLdRegs_cases x s)
  refine ⟨decode_encode (.ldRegs x), hfault, fun hb => ⟨_, hdone hb, fun r hr => ?_, fun r hr => ?_, ?_,
    sameBesidesRegs_writeVUpTo x _ s, ?_⟩⟩
  · rw [readV_advance, readV_writeVUpTo, if_pos (Fin.le_def.mp hr)]
  · rw [readV_advance, readV_writeVUpTo, if_neg (Nat.not_le.mpr (Fin.lt_def.mp hr))]
  · rw [advance_pc, writeVUpTo_pc]
  · rw [advance_draws, writeVUpTo_draws]

end Sys2Proof.Machine
end

section
/-! PROOFS. The family 45_display.md: the two outcomes of DXYN and what a completed one has left in each cell and in VF, from
which come the drawing, the fault, and that a second drawing undoes the first. -/

namespace Sys2Proof.Machine

/-! ### The two outcomes of a draw -/

section
variable {x y : Reg} {n : Fin 16} {s : State}

/-- DXYN with source and targets in bounds completes (R152). -/
theorem exec_drw_of_inBounds (hm : SpriteInMemory s n) (hs : SpriteOnScreen s x y n) :
    exec (.drw x y n) s = .next (drawn (drawTargets x y n s) s) := by
  obtain ⟨-, -, he⟩ | ⟨hn, -⟩ := execDrw_cases x y n s
  · exact he
  · exact absurd ⟨hm, hs⟩ hn

/-- DXYN with its source or a target out of bounds faults (R153). -/
theorem exec_drw_of_outOfBounds (h : ¬ (SpriteInMemory s n ∧ SpriteOnScreen s x y n)) :
    exec (.drw x y n) s = .next (faulted .outOfBoundsMemoryAccess s) := by
  obtain ⟨hm, hs, -⟩ | ⟨-, he⟩ := execDrw_cases x y n s
  · exact absurd ⟨hm, hs⟩ h
  · exact he

/-- A DXYN that took no fault had its source and targets in bounds, and its result is the drawn state (R152, R153). -/
theorem inBounds_of_exec_drw {t : State} (h : exec (.drw x y n) s = .next t) (ht : t.fault = .none) :
    SpriteInMemory s n ∧ SpriteOnScreen s x y n ∧ t = drawn (drawTargets x y n s) s := by
  by_cases hb : SpriteInMemory s n ∧ SpriteOnScreen s x y n
  · exact ⟨hb.1, hb.2, exec_next_unique h (exec_drw_of_inBounds hb.1 hb.2)⟩
  · rw [exec_next_unique h (exec_drw_of_outOfBounds hb)] at ht
    cases ht

/-! ### What a completed draw has left -/

/-- A cell under a 1 bit of the sprite is inverted (R152). -/
theorem cell_drawn_of_over (h : SpriteOnScreen s x y n) {col row : Nat} (ho : SpriteOver s x y n col row) :
    cell (drawn (drawTargets x y n s) s).fb col row = !cell s.fb col row := by
  have hmem : (col, row) ∈ drawTargets x y n s := (mem_drawTargets ..).mpr ho
  exact (cell_drawn h col row).trans (by rw [decide_eq_true hmem, Bool.xor_true])

/-- A cell under no 1 bit of the sprite is as before (R152). -/
theorem cell_drawn_of_not_over (h : SpriteOnScreen s x y n) {col row : Nat} (ho : ¬ SpriteOver s x y n col row) :
    cell (drawn (drawTargets x y n s) s).fb col row = cell s.fb col row := by
  have hmem : (col, row) ∉ drawTargets x y n s := mt (mem_drawTargets ..).mp ho
  exact (cell_drawn h col row).trans (by rw [decide_eq_false hmem, Bool.xor_false])

/-- A draw collides exactly when some cell under a 1 bit was lit (R152). -/
theorem collision_iff_exists_over : (composite s.fb (drawTargets x y n s)).2 = true ↔
    ∃ col row, SpriteOver s x y n col row ∧ cell s.fb col row = true := by
  rw [composite_collision _ _ (drawTargets_nodup ..)]
  simp only [Prod.exists, mem_drawTargets]

/-- VF after a draw, whichever registers X and Y are: 1 on a collision, else 0 (R152). -/
theorem readV_drawn_vf :
    ((∃ col row, SpriteOver s x y n col row ∧ cell s.fb col row = true) →
      readV (drawn (drawTargets x y n s) s) vf = 1) ∧
    ((¬ ∃ col row, SpriteOver s x y n col row ∧ cell s.fb col row = true) →
      readV (drawn (drawTargets x y n s) s) vf = 0) := by
  have hvf : readV (drawn (drawTargets x y n s) s) vf = flagByte (composite s.fb (drawTargets x y n s)).2 := by
    rw [drawn, readV_advance, readV_markDirty, readV_writeFlag, if_pos rfl]
  rw [← collision_iff_exists_over, hvf]
  exact ⟨fun hc => if_pos hc, fun hc => if_neg hc⟩

/-! ### The same sprite in another state -/

/-- Where a sprite lies is read from I, the two coordinates and memory alone (R151, D8). -/
theorem spriteOver_congr {u : State} (hi : u.i = s.i) (hx : readV u x = readV s x) (hy : readV u y = readV s y)
    (hm : SameMemory s u) : SpriteOver u x y n = SpriteOver s x y n := by
  funext col row
  simp only [SpriteOver, hi, hx, hy, hm _]

/-- A draw over the framebuffer an equal draw left: its touched cells are the inverted ones, so a lit one is one that was
unlit before the first draw (R154). -/
theorem exists_over_lit_iff_unlit {u : State} (hs : SpriteOnScreen s x y n)
    (hfb : u.fb = (drawn (drawTargets x y n s) s).fb) (ho : SpriteOver u x y n = SpriteOver s x y n) :
    (∃ col row, SpriteOver u x y n col row ∧ cell u.fb col row = true) ↔
      ∃ col row, SpriteOver s x y n col row ∧ cell s.fb col row = false := by
  rw [hfb, ho]
  refine exists₂_congr fun col row => and_congr_right fun hover => ?_
  rw [cell_drawn_of_over hs hover, Bool.not_eq_true']

/-- A second equal draw inverts the same cells back (R154). -/
theorem drawn_fb_of_drawn {u : State} (hs : SpriteOnScreen s x y n) (hu : SpriteOnScreen u x y n)
    (hfb : u.fb = (drawn (drawTargets x y n s) s).fb) (ho : SpriteOver u x y n = SpriteOver s x y n) :
    (drawn (drawTargets x y n u) u).fb = s.fb := by
  refine fb_ext fun col row _ _ => ?_
  by_cases hover : SpriteOver s x y n col row
  · rw [cell_drawn_of_over hu (ho ▸ hover), hfb, cell_drawn_of_over hs hover, Bool.not_not]
  · rw [cell_drawn_of_not_over hu (ho ▸ hover), hfb, cell_drawn_of_not_over hs hover]

end

/-! ### The obligations -/

/-- Settles O50: 0x00E0 is the encoding of CLS, which replaces the framebuffer by the cleared one and advances. -/
theorem clearScreen : Obligations.ClearScreen :=
  ⟨fun w => decode_eq_ok_iff w .cls, fun _ => ⟨_, rfl, cell_clearedFb, rfl, fun _ => rfl, fun _ => rfl, rfl, rfl,
    ⟨rfl, rfl⟩, ⟨rfl, rfl⟩, rfl, rfl, rfl⟩⟩

/-- Settles O51: in bounds the drawn state answers, cell by cell and flag by the rules above. -/
theorem drawXorsTheSprite : Obligations.DrawXorsTheSprite := by
  refine fun x y n s => ⟨decode_encode (.drw x y n), fun hm hs => ⟨_, exec_drw_of_inBounds hm hs, ?_⟩⟩
  obtain ⟨hlit, hunlit⟩ := readV_drawn_vf (x := x) (y := y) (n := n) (s := s)
  refine ⟨fun _ _ _ _ => ⟨cell_drawn_of_over hs, cell_drawn_of_not_over hs⟩, hlit, hunlit, fun r hr => ?_, rfl, rfl,
    fun _ => rfl, rfl, rfl, ⟨rfl, rfl⟩, rfl, ⟨rfl, rfl⟩, rfl⟩
  rw [drawn, readV_advance, readV_markDirty, readV_writeFlag, if_neg hr, readV_setFb]

/-- Settles O52: out of bounds the fault is the whole outcome. -/
theorem drawOutOfBoundsFaults : Obligations.DrawOutOfBoundsFaults := fun _ _ _ _ => exec_drw_of_outOfBounds

/-- Settles O53: the second draw touches the cells the first did, all in bounds as before, and inverts them back. -/
theorem drawTwiceRestoresTheScreen : Obligations.DrawTwiceRestoresTheScreen := by
  intro x y n s t u _ hexec ht hfb hi hx hy hmem
  obtain ⟨hm, hs, rfl⟩ := inBounds_of_exec_drw hexec ht
  have hover : SpriteOver u x y n = SpriteOver s x y n := spriteOver_congr hi hx hy hmem
  have hmu : SpriteInMemory u n := by rwa [SpriteInMemory, hi]
  have hsu : SpriteOnScreen u x y n := by rwa [SpriteOnScreen, hover]
  refine ⟨_, exec_drw_of_inBounds hmu hsu, drawn_fb_of_drawn hs hsu hfb hover, ?_⟩
  rw [← exists_over_lit_iff_unlit hs hfb hover]
  exact readV_drawn_vf

end Sys2Proof.Machine
end

section
/-! PROOFS. The family 46_timer_key.md: what the tick of the same step does to a timer an instruction has just read or set,
and one rule for everything a write of the timers leaves as before. -/

namespace Sys2Proof.Machine

/-! ### The tick after the instruction -/

/-- The delay timer falls by one and stops at 0 (R94). -/
theorem tick_dt_toNat (s : State) : (tick s).dt.toNat = s.dt.toNat - 1 := by
  rw [tick_dt, decTimer_toNat]

/-- The sound timer falls by one and stops at 0 (R94). -/
theorem tick_st_toNat (s : State) : (tick s).st.toNat = s.st.toNat - 1 := by
  rw [tick_st, decTimer_toNat]

/-- Only a sound timer that goes from 1 to 0 beeps (R94). -/
theorem tick_beep_of_st_ne_one {s : State} (h : s.st ≠ 1) : (tick s).beep = s.beep := by
  rw [tick_beep, if_neg h]

/-- With the output cleared beforehand, the beep is this tick's own (R94, R95). -/
theorem tick_beep_iff_of_cleared {s : State} (h : s.beep = false) : (tick s).beep = true ↔ s.st.toNat = 1 := by
  have hst : s.st = 1 ↔ s.st.toNat = 1 := BitVec.toNat_inj.symm
  rw [tick_beep_iff, h, or_iff_left Bool.false_ne_true, hst]

/-! ### The frame of a timer write -/

/-- Everything but the timers and the pc is as before. -/
def SameBesidesTimersAndPc (s t : State) : Prop :=
  SameRegs s t ∧ SameMemory s t ∧ t.i = s.i ∧ t.stack = s.stack ∧ SameDisplay s t ∧ SameInputs s t ∧ t.draws = s.draws

/-- A write of DT and the advance change nothing else (R162). -/
theorem sameBesidesTimersAndPc_setDt (b : Byte) (s : State) : SameBesidesTimersAndPc s (advance (setDt b s)) :=
  ⟨fun _ => rfl, fun _ => rfl, rfl, rfl, ⟨rfl, rfl, rfl⟩, ⟨rfl, rfl⟩, rfl⟩

/-- A write of ST and the advance change nothing else (R163). -/
theorem sameBesidesTimersAndPc_setSt (b : Byte) (s : State) : SameBesidesTimersAndPc s (advance (setSt b s)) :=
  ⟨fun _ => rfl, fun _ => rfl, rfl, rfl, ⟨rfl, rfl, rfl⟩, ⟨rfl, rfl⟩, rfl⟩

/-! ### The obligations -/

/-- Settles O54: a plain write of DT to VX, which leaves DT itself to the tick, and the tick touches no register. -/
theorem readDelayTimer : Obligations.ReadDelayTimer := by
  intro x s
  obtain ⟨t, ht, hv, hregs, hpc, hrest, hdraws⟩ := loadReg_completes x s.dt s
  have ⟨_, _, _, ⟨hdt, _⟩, _⟩ := hrest
  exact ⟨decode_encode (.ldVxDt x), t, ht, hv, hregs, hpc, hrest, hdraws, (readV_tick t x).trans hv,
    by rw [tick_dt_toNat, hdt]⟩

/-- Settles O55: the tick lowers the DT just written, and reads for its beep the ST that FX15 left alone. -/
theorem setDelayTimer : Obligations.SetDelayTimer := by
  intro x s
  obtain ⟨hregs, hmem, hi, hstack, hdisplay, hinputs, hdraws⟩ := sameBesidesTimersAndPc_setDt (readV s x) s
  exact ⟨decode_encode (.ldDtVx x), _, rfl, rfl, tick_dt_toNat _, tick_beep_of_st_ne_one, rfl, hregs, hmem,
    hi, hstack, rfl, hdisplay, hinputs, hdraws⟩

/-- Settles O56: the tick lowers the ST just written, and beeps when that value was 1. -/
theorem setSoundTimer : Obligations.SetSoundTimer := by
  intro x s
  obtain ⟨hregs, hmem, hi, hstack, hdisplay, hinputs, hdraws⟩ := sameBesidesTimersAndPc_setSt (readV s x) s
  exact ⟨decode_encode (.ldStVx x), _, rfl, rfl, tick_st_toNat _, fun hbeep => tick_beep_iff_of_cleared hbeep, rfl, hregs,
    hmem, hi, hstack, rfl, hdisplay, hinputs, hdraws⟩

end Sys2Proof.Machine
end

section
/-! PROOFS. The family 60_exceptions.md: what a faulting step leaves, under which condition each instruction takes which
fault, the step of a finished machine, and the key events. -/

namespace Sys2Proof.Machine

/-! ### What a faulting step leaves -/

/-- Settles O11: a step that completes ends unfaulted, and one that does not leaves the state `faulted` names. -/
theorem faultingStepChangesNothingElse : Obligations.FaultingStepChangesNothingElse := by
  intro mode s t h ht
  obtain ⟨f, -, rfl⟩ | ⟨i, -, u, -, hu, rfl⟩ := step_faults_or_completes h
  · exact ⟨rfl, rfl, rfl, rfl, rfl, rfl, rfl, rfl, rfl, rfl, rfl, rfl⟩
  · exact absurd ((afterExecute_fault mode u).trans hu) ht

/-! ### Which fault an instruction takes -/

/-- The faults an instruction takes in a state, each with its condition (R171 to R174). -/
inductive Raises (s : State) : Instr → FaultCode → Prop where
  | unimplemented {i : Instr} (hi : unimplemented i = true) : Raises s i .unsupportedOpcode
  | callAtFullDepth {nnn : Addr12} (hsp : sp s = 16) : Raises s (.call nnn) .stackOverflow
  | retAtDepthZero (hsp : sp s = 0) : Raises s .ret .stackUnderflow
  | digitsPastMemory {x : Reg} (hb : s.i.toNat + 2 > 4095) : Raises s (.ldBVx x) .outOfBoundsMemoryAccess
  | storePastMemory {x : Reg} (hb : s.i.toNat + x.val > 4095) : Raises s (.stRegs x) .outOfBoundsMemoryAccess
  | loadPastMemory {x : Reg} (hb : s.i.toNat + x.val > 4095) : Raises s (.ldRegs x) .outOfBoundsMemoryAccess
  | drawOutOfBounds {x y : Reg} {n : Fin 16} (hb : ¬ (SpriteInMemory s n ∧ SpriteOnScreen s x y n)) :
      Raises s (.drw x y n) .outOfBoundsMemoryAccess

section
variable {s t : State} {i : Instr} {f : FaultCode}

/-- No condition reads an output (R90). -/
theorem raises_clearOutputs : Raises (clearOutputs s) i f ↔ Raises s i f := by
  constructor <;> intro h <;> cases h <;> constructor <;> assumption

/-- Under its condition the fault is the whole outcome of the instruction (R176). -/
theorem Raises.exec_eq (h : Raises s i f) : exec i s = .next (faulted f s) := by
  cases h with
  | unimplemented hi => exact exec_of_unimplemented hi s
  | callAtFullDepth hsp => exact exec_call_of_full hsp _
  | retAtDepthZero hsp => exact exec_ret_of_empty (List.length_eq_zero_iff.mp hsp)
  | digitsPastMemory hb => exact (outcomes_of_bound (execLdBVx_cases _ s)).1 hb
  | storePastMemory hb => exact (outcomes_of_bound (execStRegs_cases _ s)).1 hb
  | loadPastMemory hb => exact (outcomes_of_bound (execLdRegs_cases _ s)).1 hb
  | drawOutOfBounds hb => exact exec_drw_of_outOfBounds hb

/-- The fault register after an instruction is known from any form of its outcome. -/
theorem fault_eq_of_exec {u : State} (h : exec i s = .next t) (he : exec i s = .next u) (hu : u.fault = s.fault) :
    t.fault = s.fault := by
  rw [exec_next_unique h he, hu]

/-- An instruction under none of the conditions leaves the fault register alone (R170). -/
theorem raises_or_fault_eq (h : exec i s = .next t) : (∃ f, Raises s i f) ∨ t.fault = s.fault := by
  cases i
  case ret =>
    rcases execRet_cases s with ⟨hs, -⟩ | ⟨w, rest, -, he⟩
    · exact .inl ⟨_, .retAtDepthZero (List.length_eq_zero_iff.mpr hs)⟩
    · exact .inr (fault_eq_of_exec h he rfl)
  case call nnn =>
    rcases execCall_cases nnn s with ⟨hsp, -⟩ | ⟨-, he⟩
    · exact .inl ⟨_, .callAtFullDepth hsp⟩
    · exact .inr (fault_eq_of_exec h he rfl)
  case ldBVx x =>
    rcases execLdBVx_cases x s with ⟨-, he⟩ | ⟨hb, -⟩
    · exact .inr (fault_eq_of_exec h he rfl)
    · exact .inl ⟨_, .digitsPastMemory hb⟩
  case stRegs x =>
    rcases execStRegs_cases x s with ⟨-, he⟩ | ⟨hb, -⟩
    · exact .inr (fault_eq_of_exec h he rfl)
    · exact .inl ⟨_, .storePastMemory hb⟩
  case ldRegs x =>
    rcases execLdRegs_cases x s with ⟨-, he⟩ | ⟨hb, -⟩
    · exact .inr (fault_eq_of_exec h he rfl)
    · exact .inl ⟨_, .loadPastMemory hb⟩
  case drw x y n =>
    rcases execDrw_cases x y n s with ⟨-, -, he⟩ | ⟨hb, -⟩
    · exact .inr (fault_eq_of_exec h he rfl)
    · exact .inl ⟨_, .drawOutOfBounds hb⟩
  case shr | subn | shl | ldVxK | addIVx => exact .inl ⟨_, .unimplemented rfl⟩
  -- The rows left have no check of their own: each is one chain of updates, none of them of the fault register.
  all_goals cases h; exact .inr rfl

/-- An instruction run unfaulted takes a fault exactly under its condition (R170). -/
theorem exec_fault_iff (h : exec i s = .next t) (hs : s.fault = .none) (hf : f ≠ .none) : t.fault = f ↔ Raises s i f := by
  constructor
  · rintro rfl
    obtain ⟨g, hg⟩ | he := raises_or_fault_eq h
    · rwa [exec_next_unique h hg.exec_eq]
    · exact absurd (he.trans hs) hf
  · intro hr
    rw [exec_next_unique h hr.exec_eq, faulted_fault]

/-! One code at a time: which instructions take it, and when. -/

theorem raises_unsupportedOpcode_iff : Raises s i .unsupportedOpcode ↔ unimplemented i = true :=
  ⟨fun | .unimplemented hi => hi, .unimplemented⟩

theorem raises_stackOverflow_iff : Raises s i .stackOverflow ↔ (∃ nnn, i = .call nnn) ∧ sp s = 16 :=
  ⟨fun | .callAtFullDepth hsp => ⟨⟨_, rfl⟩, hsp⟩, fun ⟨⟨_, hi⟩, hsp⟩ => hi ▸ .callAtFullDepth hsp⟩

theorem raises_stackUnderflow_iff : Raises s i .stackUnderflow ↔ i = .ret ∧ sp s = 0 :=
  ⟨fun | .retAtDepthZero hsp => ⟨rfl, hsp⟩, fun ⟨hi, hsp⟩ => hi ▸ .retAtDepthZero hsp⟩

theorem raises_outOfBounds_iff : Raises s i .outOfBoundsMemoryAccess ↔
    (∃ x, i = .ldBVx x ∧ s.i.toNat + 2 > 4095) ∨
    (∃ x, i = .stRegs x ∧ s.i.toNat + x.val > 4095) ∨
    (∃ x, i = .ldRegs x ∧ s.i.toNat + x.val > 4095) ∨
    ∃ x y n, i = .drw x y n ∧ ¬ (SpriteInMemory s n ∧ SpriteOnScreen s x y n) := by
  constructor
  · intro h
    cases h with
    | digitsPastMemory hb => exact .inl ⟨_, rfl, hb⟩
    | storePastMemory hb => exact .inr (.inl ⟨_, rfl, hb⟩)
    | loadPastMemory hb => exact .inr (.inr (.inl ⟨_, rfl, hb⟩))
    | drawOutOfBounds hb => exact .inr (.inr (.inr ⟨_, _, _, rfl, hb⟩))
  · rintro (⟨x, rfl, hb⟩ | ⟨x, rfl, hb⟩ | ⟨x, rfl, hb⟩ | ⟨x, y, n, rfl, hb⟩)
    · exact .digitsPastMemory hb
    · exact .storePastMemory hb
    · exact .loadPastMemory hb
    · exact .drawOutOfBounds hb

end

/-- Settles O12: the fetch bound and the decoder account for one code each, and past them the conditions are those of the
fetched instruction. -/
theorem faultsAreRaisedExactlyWhen : Obligations.FaultsAreRaisedExactlyWhen := by
  intro mode s t h
  obtain ⟨hs, ⟨hpc, rfl⟩ | ⟨hpc, ⟨e, he⟩, rfl⟩ | ⟨i, u, hpc, hi, hu, rfl⟩⟩ := step_cases h
  · simp [hpc]
  · simp [hpc, he]
  · have hfault (f : FaultCode) (hf : f ≠ .none) : (afterExecute mode u).fault = f ↔ Raises s i f := by
      rw [afterExecute_fault, exec_fault_iff hu hs hf, raises_clearOutputs]
    rw [hfault .unsupportedOpcode nofun, hfault .stackOverflow nofun, hfault .stackUnderflow nofun,
      hfault .outOfBoundsMemoryAccess nofun, raises_unsupportedOpcode_iff, raises_stackOverflow_iff,
      raises_stackUnderflow_iff, raises_outOfBounds_iff]
    simp [hi, hpc]

/-! ### The end of a run -/

/-- Widening the low 12 bits of a pc that can be fetched from gives the pc back (R91). -/
theorem addrWord_setWidth_pc {s : State} (hpc : s.pc.toNat ≤ 4094) : addrWord (s.pc.setWidth 12) = s.pc := by
  apply BitVec.eq_of_toNat_eq
  rw [addrWord_toNat, BitVec.toNat_setWidth]
  omega

/-- The step of a machine that sits on a jump to itself is the clearing of the outputs and the tick (R193). -/
theorem stepIn_of_finished {s : State} (h : Finished s) : stepIn .perStep s = .next (tick (clearOutputs s)) := by
  obtain ⟨hf, ho, hi⟩ := h
  have hpc : s.pc.toNat ≤ 4094 := of_decide_eq_true ho
  have hjump : exec (.jp (s.pc.setWidth 12)) (clearOutputs s) = .next (clearOutputs s) := by
    change Host.Outcome.next (setPc (addrWord (s.pc.setWidth 12)) (clearOutputs s)) = _
    rw [addrWord_setWidth_pc hpc]
    rfl
  rw [stepIn_of_exec hf hpc hi hjump, afterExecute_perStep (u := clearOutputs s) hf]

/-- Settles O22: clearing the outputs and the tick touch neither the fault register nor what the next fetch reads. -/
theorem finishedMachineOnlyCountsDown : Obligations.FinishedMachineOnlyCountsDown := fun s h =>
  ⟨_, stepIn_of_finished h, h, fun _ => rfl, fun _ => rfl, rfl, rfl, rfl, rfl, rfl, rfl, rfl, tick_dt_toNat (clearOutputs s),
    tick_st_toNat (clearOutputs s), tick_beep_iff_of_cleared (s := clearOutputs s) rfl⟩

/-! ### Key events -/

/-- A key after one key is set: that key is as set, every other is as before (R187). -/
theorem setKey_key_getElem (k j : Fin 16) (b : Bool) (s : State) :
    (setKey k b s).key[j] = if j = k then b else s.key[j] := by
  rw [setKey_key, Fin.getElem_fin, Vector.getElem_set]
  exact if_congr (by rw [eq_comm, Fin.ext_iff]) rfl rfl

/-- Setting a key twice is setting it once (R187, D18). -/
theorem setKey_setKey (k : Fin 16) (b : Bool) (s : State) : setKey k b (setKey k b s) = setKey k b s := by
  rw [setKey, setKey_key, Vector.set_set]
  rfl

/-- Settles O27: a key event is the setting of one key, which leaves every other field alone. -/
theorem keyEventsSetOneKey : Obligations.KeyEventsSetOneKey := fun k s =>
  ⟨fun j => setKey_key_getElem k j true s, fun j => setKey_key_getElem k j false s, setKey_setKey k true s,
    setKey_setKey k false s, rfl, rfl⟩

end Sys2Proof.Machine
end

section
/-! PROOFS. The family 70_reset_and_hazards.md: what each address reads as after reset, after `init()` with any font and after
`load`, from which come the boot state, the entry point and the frame of both host operations. -/

namespace Sys2Proof.Machine

/-! ### Reset -/

/-- The reset contents: the default font at 0 to 79, zero elsewhere (R57). -/
theorem resetByte_eq (a : Nat) : resetByte a = if h : a < 80 then Config.font[a] else 0 := by
  split
  · next h => rw [resetByte, List.getD_eq_getElem _ _ (by simpa using h), Vector.getElem_toList]
  · next h => rw [resetByte, List.getD_eq_default _ _ (by simpa using h)]

/-- Settles O23: memory lists nothing, so it reads as the reset contents; the registers, keys and cells are replicated zeros. -/
theorem resetLeavesTheBootState : Obligations.ResetLeavesTheBootState :=
  ⟨resetByte_eq, fun r => Vector.getElem_replicate r.isLt, rfl, rfl, rfl, rfl, rfl, fun k => Vector.getElem_replicate k.isLt,
    cell_clearedFb, rfl, rfl, rfl⟩

/-! ### `init()` with any font -/

/-- After `init()` with any font memory reads as that font at 0 to 79 and zero elsewhere (R57, R200). -/
theorem readMem_initWith (font : Vector Byte 80) (s : State) (a : Nat) :
    readMem (initWith font s) a = if h : a < 80 then font[a] else 0 := by
  have hstore := memRead_storeBytes reset_mem_wf font.toList (a := 0) (by simp [Config.memSize]) a
  refine hstore.trans ?_
  by_cases ha : a < 80
  · simp [ha]
  · have hreset : memRead State.reset.mem a = 0 := (resetByte_eq a).trans (dif_neg ha)
    simp [ha, hreset]

/-- Storing the default font over reset memory lists nothing: both memories are canonical and read alike (log 5). -/
theorem initWith_font_mem (s : State) : (initWith Config.font s).mem = [] := by
  obtain ⟨hw, -⟩ := stateInv_initWith Config.font s
  exact canonicalMemoryIsDeterminedByItsBytes _ _ hw reset_mem_wf fun a =>
    (readMem_initWith Config.font s a).trans (resetByte_eq a).symm

/-- Settles O26: `init()` is reset with a font stored over its memory, whatever the state before; with the default font the
stored memory is that of reset. -/
theorem initInstallsAnyFontAndClearsTheFault : Obligations.InitInstallsAnyFontAndClearsTheFault := fun font s =>
  ⟨readMem_initWith font s, rfl, rfl, congrArg (fun m => { init s with mem := m }) (initWith_font_mem s), rfl⟩

/-! ### `load` -/

/-- The bytes `load` copies lie inside memory: `PROG_BASE + PROG_MAX` is its end (R6). -/
theorem loaded_inside_memory (bytes : List Byte) :
    Config.progBase + (bytes.take Config.progMax).length ≤ Config.memSize := by
  simp only [Config.progBase, Config.progMax, Config.memSize, List.length_take]
  omega

/-- Memory after `load`: the program, cut off after 3584 bytes, from 0x200 on, and the old contents elsewhere (R203). -/
theorem readMem_load {s : State} (hw : s.mem.wf = true) (bytes : List Byte) (a : Nat) :
    readMem (load bytes s) a =
      if h : 0x200 ≤ a ∧ a < 0x200 + (bytes.take 3584).length then (bytes.take 3584)[a - 0x200]'(by omega) else readMem s a :=
  memRead_storeBytes hw (bytes.take 3584) (loaded_inside_memory bytes) a

/-- Settles O25, by the two sides of the bound of the block that `load` stores. -/
theorem loadCopiesTheProgram : Obligations.LoadCopiesTheProgram := by
  intro bytes s hw
  refine ⟨fun k hk hmax => ?_, fun a ha => ?_, rfl⟩
  · have hin : k < (bytes.take 3584).length := by rw [List.length_take]; omega
    rw [readMem_load hw, dif_pos ⟨by omega, by omega⟩]
    simp
  · have hout : ¬ (0x200 ≤ a ∧ a < 0x200 + (bytes.take 3584).length) := by
      rintro ⟨hlo, hhi⟩
      rw [List.length_take] at hhi
      exact ha (a - 0x200) (by omega) (by omega) (by omega)
    rw [readMem_load hw, dif_neg hout]

/-- Settles O24: `load` leaves the pc of reset alone, and two bytes are fetched from it on. -/
theorem entryPointIs0x200 : Obligations.EntryPointIs0x200 := fun _ _ => ⟨rfl, rfl⟩

end Sys2Proof.Machine
end
